-- ==== Sys2Proof/Word.lean ====
section
/-! DEFINITION. The word types of the machine (spec 00_scope.md R6, R7) and the shape of the sparse tables that hold
its memories. -/

namespace Sys2Proof

/-- A register, a bus datum: 8 bits (R6 `XLEN`). -/
abbrev Byte := BitVec 8

/-- A CPU or PPU bus address, and `PC`: 16 bits (R6 `ALEN`). -/
abbrev Addr := BitVec 16

/-- A 6-bit colour index, the element of a frame buffer (R36). -/
abbrev Color := BitVec 6

/-- A table from natural keys to values, held as the list of its entries that differ from the default. -/
abbrev Cells (α : Type) := List (Nat × α)

/-- A frame buffer (R36): the rows `y` that are not all 0, and in each the columns `x` that are not 0. -/
abbrev Grid := Cells (Cells Color)

end Sys2Proof
end

