-- ==== Sys2Proof/Config.lean ====
section
/-! DEFINITION. The implementation parameters of 00_scope.md R6, at the values the spec takes (log entry 14), and the
values the spec leaves to the environment, as constants without a body (log entries 1 to 4). -/

namespace Sys2Proof

/-- `MIRROR` (R65): the four nametable mirroring modes the spec admits. -/
inductive Mirroring where
  | horizontal
  | vertical
  | single0
  | single1
  deriving DecidableEq, Repr, Inhabited

/-- One contact of the core with its environment (R300): a byte asked for, a byte handed over, `irq_line` sampled,
a frame handed to the sink. -/
inductive EnvEvent where
  | cartCpuRead (a : Addr)
  | cartCpuWrite (a : Addr) (b : Byte)
  | cartPpuRead (a : Nat)
  | cartPpuWrite (a : Nat) (b : Byte)
  | ioRead (a : Addr)
  | ioWrite (a : Addr) (b : Byte)
  | irqSample
  | frameSink (buffer : Grid)
  deriving DecidableEq, Repr

/-- `NMI_DELAY` (R6, D3): global steps between an NMI edge and its latch. -/
def Config.nmiDelay : Nat := 2

/-- `ODD_FRAME_SKIP` (R6, D21). -/
def Config.oddFrameSkip : Bool := true

/-- `INT_CYCLES` (R6, D4). -/
def Config.intCycles : Nat := 7

/-- `ILLEGAL_LEN` (R6, D6). -/
def Config.illegalLen : Nat := 1

/-- `ILLEGAL_CYCLES` (R6, D6). -/
def Config.illegalCycles : Nat := 2

/-- `PPU_CLOCK_RATIO` (R6): PPU dots per CPU cycle. -/
def Config.ppuClockRatio : Nat := 3

/-- `DMA_STALL_EVEN` (R6): the OAM DMA stall on an even cycle; one more on an odd one. -/
def Config.dmaStall : Nat := 513

/-- `RESET_SP` (R6, D26). -/
def Config.resetSp : Byte := 0xFD

/-- `RESET_P` (R6, D26). -/
def Config.resetP : Byte := 0x24

/-- `RESET_CYCLES` (R6, D26). -/
def Config.resetCycles : Nat := 7

/-- `STACK_PAGE` (R6, D9). -/
def Config.stackPage : Byte := 0x01

/-- `VEC_NMI` (R77). -/
def Config.vecNmi : Addr := 0xFFFA

/-- `VEC_RESET` (R77). -/
def Config.vecReset : Addr := 0xFFFC

/-- `VEC_IRQ`, of IRQ and BRK (R77). -/
def Config.vecIrq : Addr := 0xFFFE

/-- Where `State.withFetchWord` lays the instruction it loads: an address of the cartridge's space.
DESIGN CHOICE (log entry 2): the spec names no load address. Safe: no claim about the machine rests on it. -/
def Config.loadAddress : Addr := 0x8000

/-- FREE VALUE (log entry 1): what the cartridge answers on the CPU side (R61), by the environment's hidden state. -/
opaque Config.freeCartCpuByte : Nat → Addr → Byte

/-- FREE VALUE (log entry 1): what the cartridge answers on the PPU side (R63). -/
opaque Config.freeCartPpuByte : Nat → Nat → Byte

/-- FREE VALUE (log entry 1): what the audio unit and the controller ports answer (R60). -/
opaque Config.freeIoByte : Nat → Addr → Byte

/-- FREE VALUE (log entry 3): the level of `irq_line` at a sample (R22). -/
opaque Config.freeIrqLevel : Nat → Bool

/-- FREE VALUE (log entry 1): how the environment's hidden state moves on at each contact. -/
opaque Config.envNext : Nat → EnvEvent → Nat

/-- FREE VALUE (log entry 4): the mirroring mode of the cartridge that is plugged in (R65). -/
opaque Config.mirror : Mirroring

end Sys2Proof
end

