-- ==== Sys2Proof/Syntax.lean ====
section
/-! DEFINITION. The instructions (spec 30_encoding.md R94, R110, R111). Every row of spec/opcode_table.json is a
constructor of `Instr` together with the operand form of the row (log entry 10). -/

namespace Sys2Proof

/-- An operand in memory: the eight addressing modes with a data address (R98 to R105), with the operand bytes. -/
inductive MemOperand where
  | zp (b : Byte)
  | zpX (b : Byte)
  | zpY (b : Byte)
  | abs (w : Addr)
  | absX (w : Addr)
  | absY (w : Addr)
  | indX (b : Byte)
  | indY (b : Byte)
  deriving DecidableEq, Repr

/-- The operand of a read-class instruction: immediate (R97) or in memory. -/
inductive ReadOperand where
  | imm (b : Byte)
  | mem (m : MemOperand)
  deriving DecidableEq, Repr

/-- The operand of a shift or rotate: the accumulator (R96) or in memory. -/
inductive ShiftOperand where
  | acc
  | mem (m : MemOperand)
  deriving DecidableEq, Repr

/-- The operand of JMP: absolute (R101) or indirect (R107). -/
inductive JumpOperand where
  | abs (w : Addr)
  | ind (w : Addr)
  deriving DecidableEq, Repr

/-- The instructions, in the order of the spec's files 40 to 44. A branch carries its offset byte `b1` (R92). -/
inductive Instr where
  | lda (m : ReadOperand)
  | ldx (m : ReadOperand)
  | ldy (m : ReadOperand)
  | sta (m : MemOperand)
  | stx (m : MemOperand)
  | sty (m : MemOperand)
  | tax
  | tay
  | txa
  | tya
  | tsx
  | txs
  | adc (m : ReadOperand)
  | sbc (m : ReadOperand)
  | and (m : ReadOperand)
  | ora (m : ReadOperand)
  | eor (m : ReadOperand)
  | cmp (m : ReadOperand)
  | cpx (m : ReadOperand)
  | cpy (m : ReadOperand)
  | bit (m : MemOperand)
  | asl (m : ShiftOperand)
  | lsr (m : ShiftOperand)
  | rol (m : ShiftOperand)
  | ror (m : ShiftOperand)
  | inc (m : MemOperand)
  | dec (m : MemOperand)
  | inx
  | iny
  | dex
  | dey
  | jmp (t : JumpOperand)
  | jsr (w : Addr)
  | rts
  | rti
  | brk
  | bcc (off : Byte)
  | bcs (off : Byte)
  | beq (off : Byte)
  | bne (off : Byte)
  | bmi (off : Byte)
  | bpl (off : Byte)
  | bvc (off : Byte)
  | bvs (off : Byte)
  | pha
  | php
  | pla
  | plp
  | clc
  | sec
  | cli
  | sei
  | clv
  | cld
  | sed
  | nop
  | illegal (opcode : Byte)
  deriving DecidableEq, Repr

/-- Length in bytes of an instruction with a memory operand (R94). -/
def MemOperand.length : MemOperand → Nat
  | .zp _ => 2
  | .zpX _ => 2
  | .zpY _ => 2
  | .abs _ => 3
  | .absX _ => 3
  | .absY _ => 3
  | .indX _ => 2
  | .indY _ => 2

/-- Length in bytes of a read-class instruction (R94). -/
def ReadOperand.length : ReadOperand → Nat
  | .imm _ => 2
  | .mem m => m.length

/-- Length in bytes of a shift or rotate (R94). -/
def ShiftOperand.length : ShiftOperand → Nat
  | .acc => 1
  | .mem m => m.length

end Sys2Proof
end

