-- ==== Sys2Proof/WellFormed.lean ====
section
/-! DEFINITION. Which terms of `Instr` are instructions of the machine: the addressing modes each mnemonic has in
30_encoding.md R110, and the 105 opcode bytes of R111. -/

namespace Sys2Proof

/-- The opcode bytes of R111, in its order. -/
def illegalOpcodes : List Byte :=
  [0x02, 0x03, 0x04, 0x07, 0x0B, 0x0C, 0x0F, 0x12, 0x13, 0x14, 0x17, 0x1A, 0x1B, 0x1C, 0x1F, 0x22, 0x23, 0x27, 0x2B, 0x2F, 0x32] ++
  [0x33, 0x34, 0x37, 0x3A, 0x3B, 0x3C, 0x3F, 0x42, 0x43, 0x44, 0x47, 0x4B, 0x4F, 0x52, 0x53, 0x54, 0x57, 0x5A, 0x5B, 0x5C, 0x5F] ++
  [0x62, 0x63, 0x64, 0x67, 0x6B, 0x6F, 0x72, 0x73, 0x74, 0x77, 0x7A, 0x7B, 0x7C, 0x7F, 0x80, 0x82, 0x83, 0x87, 0x89, 0x8B, 0x8F] ++
  [0x92, 0x93, 0x97, 0x9B, 0x9C, 0x9E, 0x9F, 0xA3, 0xA7, 0xAB, 0xAF, 0xB2, 0xB3, 0xB7, 0xBB, 0xBF, 0xC2, 0xC3, 0xC7, 0xCB, 0xCF] ++
  [0xD2, 0xD3, 0xD4, 0xD7, 0xDA, 0xDB, 0xDC, 0xDF, 0xE2, 0xE3, 0xE7, 0xEB, 0xEF, 0xF2, 0xF3, 0xF4, 0xF7, 0xFA, 0xFB, 0xFC, 0xFF]

/-- zp, zp,X, abs, abs,X, abs,Y, (zp,X), (zp),Y: STA, and with immediate the accumulator's read class. -/
def MemOperand.isFull : MemOperand → Bool
  | .zpY _ => false
  | _ => true

/-- zp, zp,X, abs, abs,X: the read-modify-write instructions, and with immediate LDY. -/
def MemOperand.isX : MemOperand → Bool
  | .zp _ => true
  | .zpX _ => true
  | .abs _ => true
  | .absX _ => true
  | _ => false

/-- zp, zp,Y, abs, abs,Y: with immediate, LDX. -/
def MemOperand.isY : MemOperand → Bool
  | .zp _ => true
  | .zpY _ => true
  | .abs _ => true
  | .absY _ => true
  | _ => false

/-- zp, abs: BIT, and with immediate CPX and CPY. -/
def MemOperand.isPlain : MemOperand → Bool
  | .zp _ => true
  | .abs _ => true
  | _ => false

/-- zp, zp,Y, abs: STX. -/
def MemOperand.isStx : MemOperand → Bool
  | .zp _ => true
  | .zpY _ => true
  | .abs _ => true
  | _ => false

/-- zp, zp,X, abs: STY. -/
def MemOperand.isSty : MemOperand → Bool
  | .zp _ => true
  | .zpX _ => true
  | .abs _ => true
  | _ => false

/-- A read operand whose memory form passes `f`. -/
def ReadOperand.passes (f : MemOperand → Bool) : ReadOperand → Bool
  | .imm _ => true
  | .mem m => f m

/-- A shift operand whose memory form passes `f`. -/
def ShiftOperand.passes (f : MemOperand → Bool) : ShiftOperand → Bool
  | .acc => true
  | .mem m => f m

/-- The term is an instruction of R110 or R111. -/
def Instr.wellFormed : Instr → Bool
  | .lda m => m.passes MemOperand.isFull
  | .ldx m => m.passes MemOperand.isY
  | .ldy m => m.passes MemOperand.isX
  | .sta m => m.isFull
  | .stx m => m.isStx
  | .sty m => m.isSty
  | .tax => true
  | .tay => true
  | .txa => true
  | .tya => true
  | .tsx => true
  | .txs => true
  | .adc m => m.passes MemOperand.isFull
  | .sbc m => m.passes MemOperand.isFull
  | .and m => m.passes MemOperand.isFull
  | .ora m => m.passes MemOperand.isFull
  | .eor m => m.passes MemOperand.isFull
  | .cmp m => m.passes MemOperand.isFull
  | .cpx m => m.passes MemOperand.isPlain
  | .cpy m => m.passes MemOperand.isPlain
  | .bit m => m.isPlain
  | .asl m => m.passes MemOperand.isX
  | .lsr m => m.passes MemOperand.isX
  | .rol m => m.passes MemOperand.isX
  | .ror m => m.passes MemOperand.isX
  | .inc m => m.isX
  | .dec m => m.isX
  | .inx => true
  | .iny => true
  | .dex => true
  | .dey => true
  | .jmp _ => true
  | .jsr _ => true
  | .rts => true
  | .rti => true
  | .brk => true
  | .bcc _ => true
  | .bcs _ => true
  | .beq _ => true
  | .bne _ => true
  | .bmi _ => true
  | .bpl _ => true
  | .bvc _ => true
  | .bvs _ => true
  | .pha => true
  | .php => true
  | .pla => true
  | .plp => true
  | .clc => true
  | .sec => true
  | .cli => true
  | .sei => true
  | .clv => true
  | .cld => true
  | .sed => true
  | .nop => true
  | .illegal op => illegalOpcodes.contains op

end Sys2Proof
end

