-- ==== Sys2Proof/Decode.lean ====
section
/-! DEFINITION. The decoder (spec 30_encoding.md R90, R92, R110, R111), total on any bytes, and after it the encoder,
from the encoding lines of the instruction rules R120 to R215. -/

namespace Sys2Proof

/-- Why bytes are no instruction. A byte string that is long enough always decodes (R110, R111). -/
inductive DecodeError where
  /-- There is no opcode byte. -/
  | noOpcode
  /-- The opcode byte's operand bytes are missing. -/
  | missingOperand (opcode : Byte)
  deriving DecidableEq, Repr

/-- `{b2, b1}`: the first operand byte is the low byte (R92, R51). -/
def operandWord (b1 b2 : Byte) : Addr := b2 ++ b1

/-- Row 0x of the matrix of R110: opcode bytes $00 to $0F, by the low digit. -/
def decodeRow0 (op b1 b2 : Byte) : Nat → Instr
  | 0x0 => .brk
  | 0x1 => .ora (.mem (.indX b1))
  | 0x5 => .ora (.mem (.zp b1))
  | 0x6 => .asl (.mem (.zp b1))
  | 0x8 => .php
  | 0x9 => .ora (.imm b1)
  | 0xA => .asl .acc
  | 0xD => .ora (.mem (.abs (operandWord b1 b2)))
  | 0xE => .asl (.mem (.abs (operandWord b1 b2)))
  | _ => .illegal op

/-- Row 1x of the matrix of R110: opcode bytes $10 to $1F, by the low digit. -/
def decodeRow1 (op b1 b2 : Byte) : Nat → Instr
  | 0x0 => .bpl b1
  | 0x1 => .ora (.mem (.indY b1))
  | 0x5 => .ora (.mem (.zpX b1))
  | 0x6 => .asl (.mem (.zpX b1))
  | 0x8 => .clc
  | 0x9 => .ora (.mem (.absY (operandWord b1 b2)))
  | 0xD => .ora (.mem (.absX (operandWord b1 b2)))
  | 0xE => .asl (.mem (.absX (operandWord b1 b2)))
  | _ => .illegal op

/-- Row 2x of the matrix of R110: opcode bytes $20 to $2F, by the low digit. -/
def decodeRow2 (op b1 b2 : Byte) : Nat → Instr
  | 0x0 => .jsr (operandWord b1 b2)
  | 0x1 => .and (.mem (.indX b1))
  | 0x4 => .bit (.zp b1)
  | 0x5 => .and (.mem (.zp b1))
  | 0x6 => .rol (.mem (.zp b1))
  | 0x8 => .plp
  | 0x9 => .and (.imm b1)
  | 0xA => .rol .acc
  | 0xC => .bit (.abs (operandWord b1 b2))
  | 0xD => .and (.mem (.abs (operandWord b1 b2)))
  | 0xE => .rol (.mem (.abs (operandWord b1 b2)))
  | _ => .illegal op

/-- Row 3x of the matrix of R110: opcode bytes $30 to $3F, by the low digit. -/
def decodeRow3 (op b1 b2 : Byte) : Nat → Instr
  | 0x0 => .bmi b1
  | 0x1 => .and (.mem (.indY b1))
  | 0x5 => .and (.mem (.zpX b1))
  | 0x6 => .rol (.mem (.zpX b1))
  | 0x8 => .sec
  | 0x9 => .and (.mem (.absY (operandWord b1 b2)))
  | 0xD => .and (.mem (.absX (operandWord b1 b2)))
  | 0xE => .rol (.mem (.absX (operandWord b1 b2)))
  | _ => .illegal op

/-- Row 4x of the matrix of R110: opcode bytes $40 to $4F, by the low digit. -/
def decodeRow4 (op b1 b2 : Byte) : Nat → Instr
  | 0x0 => .rti
  | 0x1 => .eor (.mem (.indX b1))
  | 0x5 => .eor (.mem (.zp b1))
  | 0x6 => .lsr (.mem (.zp b1))
  | 0x8 => .pha
  | 0x9 => .eor (.imm b1)
  | 0xA => .lsr .acc
  | 0xC => .jmp (.abs (operandWord b1 b2))
  | 0xD => .eor (.mem (.abs (operandWord b1 b2)))
  | 0xE => .lsr (.mem (.abs (operandWord b1 b2)))
  | _ => .illegal op

/-- Row 5x of the matrix of R110: opcode bytes $50 to $5F, by the low digit. -/
def decodeRow5 (op b1 b2 : Byte) : Nat → Instr
  | 0x0 => .bvc b1
  | 0x1 => .eor (.mem (.indY b1))
  | 0x5 => .eor (.mem (.zpX b1))
  | 0x6 => .lsr (.mem (.zpX b1))
  | 0x8 => .cli
  | 0x9 => .eor (.mem (.absY (operandWord b1 b2)))
  | 0xD => .eor (.mem (.absX (operandWord b1 b2)))
  | 0xE => .lsr (.mem (.absX (operandWord b1 b2)))
  | _ => .illegal op

/-- Row 6x of the matrix of R110: opcode bytes $60 to $6F, by the low digit. -/
def decodeRow6 (op b1 b2 : Byte) : Nat → Instr
  | 0x0 => .rts
  | 0x1 => .adc (.mem (.indX b1))
  | 0x5 => .adc (.mem (.zp b1))
  | 0x6 => .ror (.mem (.zp b1))
  | 0x8 => .pla
  | 0x9 => .adc (.imm b1)
  | 0xA => .ror .acc
  | 0xC => .jmp (.ind (operandWord b1 b2))
  | 0xD => .adc (.mem (.abs (operandWord b1 b2)))
  | 0xE => .ror (.mem (.abs (operandWord b1 b2)))
  | _ => .illegal op

/-- Row 7x of the matrix of R110: opcode bytes $70 to $7F, by the low digit. -/
def decodeRow7 (op b1 b2 : Byte) : Nat → Instr
  | 0x0 => .bvs b1
  | 0x1 => .adc (.mem (.indY b1))
  | 0x5 => .adc (.mem (.zpX b1))
  | 0x6 => .ror (.mem (.zpX b1))
  | 0x8 => .sei
  | 0x9 => .adc (.mem (.absY (operandWord b1 b2)))
  | 0xD => .adc (.mem (.absX (operandWord b1 b2)))
  | 0xE => .ror (.mem (.absX (operandWord b1 b2)))
  | _ => .illegal op

/-- Row 8x of the matrix of R110: opcode bytes $80 to $8F, by the low digit. -/
def decodeRow8 (op b1 b2 : Byte) : Nat → Instr
  | 0x1 => .sta (.indX b1)
  | 0x4 => .sty (.zp b1)
  | 0x5 => .sta (.zp b1)
  | 0x6 => .stx (.zp b1)
  | 0x8 => .dey
  | 0xA => .txa
  | 0xC => .sty (.abs (operandWord b1 b2))
  | 0xD => .sta (.abs (operandWord b1 b2))
  | 0xE => .stx (.abs (operandWord b1 b2))
  | _ => .illegal op

/-- Row 9x of the matrix of R110: opcode bytes $90 to $9F, by the low digit. -/
def decodeRow9 (op b1 b2 : Byte) : Nat → Instr
  | 0x0 => .bcc b1
  | 0x1 => .sta (.indY b1)
  | 0x4 => .sty (.zpX b1)
  | 0x5 => .sta (.zpX b1)
  | 0x6 => .stx (.zpY b1)
  | 0x8 => .tya
  | 0x9 => .sta (.absY (operandWord b1 b2))
  | 0xA => .txs
  | 0xD => .sta (.absX (operandWord b1 b2))
  | _ => .illegal op

/-- Row Ax of the matrix of R110: opcode bytes $A0 to $AF, by the low digit. -/
def decodeRowA (op b1 b2 : Byte) : Nat → Instr
  | 0x0 => .ldy (.imm b1)
  | 0x1 => .lda (.mem (.indX b1))
  | 0x2 => .ldx (.imm b1)
  | 0x4 => .ldy (.mem (.zp b1))
  | 0x5 => .lda (.mem (.zp b1))
  | 0x6 => .ldx (.mem (.zp b1))
  | 0x8 => .tay
  | 0x9 => .lda (.imm b1)
  | 0xA => .tax
  | 0xC => .ldy (.mem (.abs (operandWord b1 b2)))
  | 0xD => .lda (.mem (.abs (operandWord b1 b2)))
  | 0xE => .ldx (.mem (.abs (operandWord b1 b2)))
  | _ => .illegal op

/-- Row Bx of the matrix of R110: opcode bytes $B0 to $BF, by the low digit. -/
def decodeRowB (op b1 b2 : Byte) : Nat → Instr
  | 0x0 => .bcs b1
  | 0x1 => .lda (.mem (.indY b1))
  | 0x4 => .ldy (.mem (.zpX b1))
  | 0x5 => .lda (.mem (.zpX b1))
  | 0x6 => .ldx (.mem (.zpY b1))
  | 0x8 => .clv
  | 0x9 => .lda (.mem (.absY (operandWord b1 b2)))
  | 0xA => .tsx
  | 0xC => .ldy (.mem (.absX (operandWord b1 b2)))
  | 0xD => .lda (.mem (.absX (operandWord b1 b2)))
  | 0xE => .ldx (.mem (.absY (operandWord b1 b2)))
  | _ => .illegal op

/-- Row Cx of the matrix of R110: opcode bytes $C0 to $CF, by the low digit. -/
def decodeRowC (op b1 b2 : Byte) : Nat → Instr
  | 0x0 => .cpy (.imm b1)
  | 0x1 => .cmp (.mem (.indX b1))
  | 0x4 => .cpy (.mem (.zp b1))
  | 0x5 => .cmp (.mem (.zp b1))
  | 0x6 => .dec (.zp b1)
  | 0x8 => .iny
  | 0x9 => .cmp (.imm b1)
  | 0xA => .dex
  | 0xC => .cpy (.mem (.abs (operandWord b1 b2)))
  | 0xD => .cmp (.mem (.abs (operandWord b1 b2)))
  | 0xE => .dec (.abs (operandWord b1 b2))
  | _ => .illegal op

/-- Row Dx of the matrix of R110: opcode bytes $D0 to $DF, by the low digit. -/
def decodeRowD (op b1 b2 : Byte) : Nat → Instr
  | 0x0 => .bne b1
  | 0x1 => .cmp (.mem (.indY b1))
  | 0x5 => .cmp (.mem (.zpX b1))
  | 0x6 => .dec (.zpX b1)
  | 0x8 => .cld
  | 0x9 => .cmp (.mem (.absY (operandWord b1 b2)))
  | 0xD => .cmp (.mem (.absX (operandWord b1 b2)))
  | 0xE => .dec (.absX (operandWord b1 b2))
  | _ => .illegal op

/-- Row Ex of the matrix of R110: opcode bytes $E0 to $EF, by the low digit. -/
def decodeRowE (op b1 b2 : Byte) : Nat → Instr
  | 0x0 => .cpx (.imm b1)
  | 0x1 => .sbc (.mem (.indX b1))
  | 0x4 => .cpx (.mem (.zp b1))
  | 0x5 => .sbc (.mem (.zp b1))
  | 0x6 => .inc (.zp b1)
  | 0x8 => .inx
  | 0x9 => .sbc (.imm b1)
  | 0xA => .nop
  | 0xC => .cpx (.mem (.abs (operandWord b1 b2)))
  | 0xD => .sbc (.mem (.abs (operandWord b1 b2)))
  | 0xE => .inc (.abs (operandWord b1 b2))
  | _ => .illegal op

/-- Row Fx of the matrix of R110: opcode bytes $F0 to $FF, by the low digit. -/
def decodeRowF (op b1 b2 : Byte) : Nat → Instr
  | 0x0 => .beq b1
  | 0x1 => .sbc (.mem (.indY b1))
  | 0x5 => .sbc (.mem (.zpX b1))
  | 0x6 => .inc (.zpX b1)
  | 0x8 => .sed
  | 0x9 => .sbc (.mem (.absY (operandWord b1 b2)))
  | 0xD => .sbc (.mem (.absX (operandWord b1 b2)))
  | 0xE => .inc (.absX (operandWord b1 b2))
  | _ => .illegal op

/-- `DECODE[op]` of R93 with the operand bytes in place; `b1`, `b2` count only as far as the length goes (R92). -/
def decodeOp (op b1 b2 : Byte) : Instr :=
  match op.toNat / 16 with
  | 0x0 => decodeRow0 op b1 b2 (op.toNat % 16)
  | 0x1 => decodeRow1 op b1 b2 (op.toNat % 16)
  | 0x2 => decodeRow2 op b1 b2 (op.toNat % 16)
  | 0x3 => decodeRow3 op b1 b2 (op.toNat % 16)
  | 0x4 => decodeRow4 op b1 b2 (op.toNat % 16)
  | 0x5 => decodeRow5 op b1 b2 (op.toNat % 16)
  | 0x6 => decodeRow6 op b1 b2 (op.toNat % 16)
  | 0x7 => decodeRow7 op b1 b2 (op.toNat % 16)
  | 0x8 => decodeRow8 op b1 b2 (op.toNat % 16)
  | 0x9 => decodeRow9 op b1 b2 (op.toNat % 16)
  | 0xA => decodeRowA op b1 b2 (op.toNat % 16)
  | 0xB => decodeRowB op b1 b2 (op.toNat % 16)
  | 0xC => decodeRowC op b1 b2 (op.toNat % 16)
  | 0xD => decodeRowD op b1 b2 (op.toNat % 16)
  | 0xE => decodeRowE op b1 b2 (op.toNat % 16)
  | _ => decodeRowF op b1 b2 (op.toNat % 16)

/-- Length in bytes of an instruction (R90, R94). -/
def Instr.length : Instr → Nat
  | .lda m => m.length
  | .ldx m => m.length
  | .ldy m => m.length
  | .sta m => m.length
  | .stx m => m.length
  | .sty m => m.length
  | .tax => 1
  | .tay => 1
  | .txa => 1
  | .tya => 1
  | .tsx => 1
  | .txs => 1
  | .adc m => m.length
  | .sbc m => m.length
  | .and m => m.length
  | .ora m => m.length
  | .eor m => m.length
  | .cmp m => m.length
  | .cpx m => m.length
  | .cpy m => m.length
  | .bit m => m.length
  | .asl m => m.length
  | .lsr m => m.length
  | .rol m => m.length
  | .ror m => m.length
  | .inc m => m.length
  | .dec m => m.length
  | .inx => 1
  | .iny => 1
  | .dex => 1
  | .dey => 1
  | .jmp _ => 3
  | .jsr _ => 3
  | .rts => 1
  | .rti => 1
  | .brk => 1
  | .bcc _ => 2
  | .bcs _ => 2
  | .beq _ => 2
  | .bne _ => 2
  | .bmi _ => 2
  | .bpl _ => 2
  | .bvc _ => 2
  | .bvs _ => 2
  | .pha => 1
  | .php => 1
  | .pla => 1
  | .plp => 1
  | .clc => 1
  | .sec => 1
  | .cli => 1
  | .sei => 1
  | .clv => 1
  | .cld => 1
  | .sed => 1
  | .nop => 1
  | .illegal _ => Config.illegalLen

/-- The length the opcode byte alone fixes (R90). -/
def opcodeLength (op : Byte) : Nat := (decodeOp op 0 0).length

/-- Decode the first instruction of a byte string: the instruction and the bytes after it. -/
def decode : List Byte → Except DecodeError (Instr × List Byte)
  | [] => .error .noOpcode
  | op :: rest =>
    match opcodeLength op, rest with
    | 1, rest => .ok (decodeOp op 0 0, rest)
    | 2, b1 :: rest => .ok (decodeOp op b1 0, rest)
    | 3, b1 :: b2 :: rest => .ok (decodeOp op b1 b2, rest)
    | _, _ => .error (.missingOperand op)

/-- The instruction the decoder reads from an instruction whose bits are `w`, byte `k` of it in bits `8k + 7 : 8k`;
the bits from `nbits` up are 0. -/
def decodeTableWord (nbits w : Nat) : Option Instr :=
  let v := w % 2 ^ nbits
  match decode [BitVec.ofNat 8 v, BitVec.ofNat 8 (v / 256), BitVec.ofNat 8 (v / 65536)] with
  | .ok (i, _) => some i
  | .error _ => none

/-- An instruction's opcode bytes by memory mode, in the order zp, zp,X, zp,Y, abs, abs,X, abs,Y, (zp,X), (zp),Y. -/
def MemOperand.opcode (zp zpX zpY abs absX absY indX indY : Option Byte) : MemOperand → Option Byte
  | .zp _ => zp
  | .zpX _ => zpX
  | .zpY _ => zpY
  | .abs _ => abs
  | .absX _ => absX
  | .absY _ => absY
  | .indX _ => indX
  | .indY _ => indY

/-- A read-class instruction's opcode: immediate `imm`, or in memory by `f`. -/
def ReadOperand.opcode (imm : Byte) (f : MemOperand → Option Byte) : ReadOperand → Option Byte
  | .imm _ => some imm
  | .mem m => f m

/-- A shift's opcode: accumulator `acc`, or in memory by `f`. -/
def ShiftOperand.opcode (acc : Byte) (f : MemOperand → Option Byte) : ShiftOperand → Option Byte
  | .acc => some acc
  | .mem m => f m

/-- JMP's opcode (R180). -/
def JumpOperand.opcode : JumpOperand → Byte
  | .abs _ => 0x4C
  | .ind _ => 0x6C

/-- The opcode byte of an instruction, none for a form the machine does not have. -/
def Instr.opcode : Instr → Option Byte
  | .lda m => m.opcode 0xA9 (MemOperand.opcode (some 0xA5) (some 0xB5) none (some 0xAD) (some 0xBD) (some 0xB9) (some 0xA1) (some 0xB1))
  | .ldx m => m.opcode 0xA2 (MemOperand.opcode (some 0xA6) none (some 0xB6) (some 0xAE) none (some 0xBE) none none)
  | .ldy m => m.opcode 0xA0 (MemOperand.opcode (some 0xA4) (some 0xB4) none (some 0xAC) (some 0xBC) none none none)
  | .sta m => m.opcode (some 0x85) (some 0x95) none (some 0x8D) (some 0x9D) (some 0x99) (some 0x81) (some 0x91)
  | .stx m => m.opcode (some 0x86) none (some 0x96) (some 0x8E) none none none none
  | .sty m => m.opcode (some 0x84) (some 0x94) none (some 0x8C) none none none none
  | .tax => some 0xAA
  | .tay => some 0xA8
  | .txa => some 0x8A
  | .tya => some 0x98
  | .tsx => some 0xBA
  | .txs => some 0x9A
  | .adc m => m.opcode 0x69 (MemOperand.opcode (some 0x65) (some 0x75) none (some 0x6D) (some 0x7D) (some 0x79) (some 0x61) (some 0x71))
  | .sbc m => m.opcode 0xE9 (MemOperand.opcode (some 0xE5) (some 0xF5) none (some 0xED) (some 0xFD) (some 0xF9) (some 0xE1) (some 0xF1))
  | .and m => m.opcode 0x29 (MemOperand.opcode (some 0x25) (some 0x35) none (some 0x2D) (some 0x3D) (some 0x39) (some 0x21) (some 0x31))
  | .ora m => m.opcode 0x09 (MemOperand.opcode (some 0x05) (some 0x15) none (some 0x0D) (some 0x1D) (some 0x19) (some 0x01) (some 0x11))
  | .eor m => m.opcode 0x49 (MemOperand.opcode (some 0x45) (some 0x55) none (some 0x4D) (some 0x5D) (some 0x59) (some 0x41) (some 0x51))
  | .cmp m => m.opcode 0xC9 (MemOperand.opcode (some 0xC5) (some 0xD5) none (some 0xCD) (some 0xDD) (some 0xD9) (some 0xC1) (some 0xD1))
  | .cpx m => m.opcode 0xE0 (MemOperand.opcode (some 0xE4) none none (some 0xEC) none none none none)
  | .cpy m => m.opcode 0xC0 (MemOperand.opcode (some 0xC4) none none (some 0xCC) none none none none)
  | .bit m => m.opcode (some 0x24) none none (some 0x2C) none none none none
  | .asl m => m.opcode 0x0A (MemOperand.opcode (some 0x06) (some 0x16) none (some 0x0E) (some 0x1E) none none none)
  | .lsr m => m.opcode 0x4A (MemOperand.opcode (some 0x46) (some 0x56) none (some 0x4E) (some 0x5E) none none none)
  | .rol m => m.opcode 0x2A (MemOperand.opcode (some 0x26) (some 0x36) none (some 0x2E) (some 0x3E) none none none)
  | .ror m => m.opcode 0x6A (MemOperand.opcode (some 0x66) (some 0x76) none (some 0x6E) (some 0x7E) none none none)
  | .inc m => m.opcode (some 0xE6) (some 0xF6) none (some 0xEE) (some 0xFE) none none none
  | .dec m => m.opcode (some 0xC6) (some 0xD6) none (some 0xCE) (some 0xDE) none none none
  | .inx => some 0xE8
  | .iny => some 0xC8
  | .dex => some 0xCA
  | .dey => some 0x88
  | .jmp t => some t.opcode
  | .jsr _ => some 0x20
  | .rts => some 0x60
  | .rti => some 0x40
  | .brk => some 0x00
  | .bcc _ => some 0x90
  | .bcs _ => some 0xB0
  | .beq _ => some 0xF0
  | .bne _ => some 0xD0
  | .bmi _ => some 0x30
  | .bpl _ => some 0x10
  | .bvc _ => some 0x50
  | .bvs _ => some 0x70
  | .pha => some 0x48
  | .php => some 0x08
  | .pla => some 0x68
  | .plp => some 0x28
  | .clc => some 0x18
  | .sec => some 0x38
  | .cli => some 0x58
  | .sei => some 0x78
  | .clv => some 0xB8
  | .cld => some 0xD8
  | .sed => some 0xF8
  | .nop => some 0xEA
  | .illegal op => if illegalOpcodes.contains op then some op else none

/-- The operand bytes of an absolute operand: low byte first (R92). -/
def wordBytes (w : Addr) : List Byte := [w.setWidth 8, (w >>> 8).setWidth 8]

/-- Operand bytes of a memory operand. -/
def MemOperand.bytes : MemOperand → List Byte
  | .zp b => [b]
  | .zpX b => [b]
  | .zpY b => [b]
  | .abs w => wordBytes w
  | .absX w => wordBytes w
  | .absY w => wordBytes w
  | .indX b => [b]
  | .indY b => [b]

/-- Operand bytes of a read operand. -/
def ReadOperand.bytes : ReadOperand → List Byte
  | .imm b => [b]
  | .mem m => m.bytes

/-- Operand bytes of a shift operand. -/
def ShiftOperand.bytes : ShiftOperand → List Byte
  | .acc => []
  | .mem m => m.bytes

/-- Operand bytes of JMP. -/
def JumpOperand.bytes : JumpOperand → List Byte
  | .abs w => wordBytes w
  | .ind w => wordBytes w

/-- The bytes after the opcode. -/
def Instr.operandBytes : Instr → List Byte
  | .lda m => m.bytes
  | .ldx m => m.bytes
  | .ldy m => m.bytes
  | .sta m => m.bytes
  | .stx m => m.bytes
  | .sty m => m.bytes
  | .tax => []
  | .tay => []
  | .txa => []
  | .tya => []
  | .tsx => []
  | .txs => []
  | .adc m => m.bytes
  | .sbc m => m.bytes
  | .and m => m.bytes
  | .ora m => m.bytes
  | .eor m => m.bytes
  | .cmp m => m.bytes
  | .cpx m => m.bytes
  | .cpy m => m.bytes
  | .bit m => m.bytes
  | .asl m => m.bytes
  | .lsr m => m.bytes
  | .rol m => m.bytes
  | .ror m => m.bytes
  | .inc m => m.bytes
  | .dec m => m.bytes
  | .inx => []
  | .iny => []
  | .dex => []
  | .dey => []
  | .jmp t => t.bytes
  | .jsr w => wordBytes w
  | .rts => []
  | .rti => []
  | .brk => []
  | .bcc off => [off]
  | .bcs off => [off]
  | .beq off => [off]
  | .bne off => [off]
  | .bmi off => [off]
  | .bpl off => [off]
  | .bvc off => [off]
  | .bvs off => [off]
  | .pha => []
  | .php => []
  | .pla => []
  | .plp => []
  | .clc => []
  | .sec => []
  | .cli => []
  | .sei => []
  | .clv => []
  | .cld => []
  | .sed => []
  | .nop => []
  | .illegal _ => []

/-- The bytes of a well-formed instruction, none for a form the machine does not have. -/
def encode (i : Instr) : Option (List Byte) := i.opcode.map (fun op => op :: i.operandBytes)

end Sys2Proof
end

