-- ==== Sys2Proof/Machine/Bits.lean ====
section
/-! DEFINITION. Bit-field, extension and byte-order helpers (spec 00_scope.md R7, 20_memory.md R51). -/

namespace Sys2Proof.Machine

/-- `lo(w)`: bits 7:0 (R7). -/
def loByte (w : Addr) : Byte := w.setWidth 8

/-- `hi(w)`: bits 15:8 (R7). -/
def hiByte (w : Addr) : Byte := (w >>> 8).setWidth 8

/-- `{h, l}`: the word whose high byte is `h` and low byte `l` (R7, R51). -/
def word16 (h l : Byte) : Addr := h ++ l

/-- `zext_16(b)` (R7). -/
def zext16 (b : Byte) : Addr := b.setWidth 16

/-- `sext_16(b)` (R7). -/
def sext16 (b : Byte) : Addr := b.signExtend 16

/-- The byte `p` with bit `i` set to `b`. -/
def putBit (i : Nat) (b : Bool) (p : Byte) : Byte :=
  if b then p ||| (1#8 <<< i) else p &&& ~~~(1#8 <<< i)

/-- A bit as the number 0 or 1. -/
def bitNat (b : Bool) : Nat := if b then 1 else 0

end Sys2Proof.Machine
end

