-- ==== Sys2Proof/Machine/Memory.lean ====
section
/-! DEFINITION. The sparse tables that hold every memory of the machine, in one canonical form: keys strictly rising,
no entry equal to the default, every key below the table's size. An unlisted key reads as the default (log entry 15). -/

namespace Sys2Proof.Machine

/-- A memory of bytes; an unlisted address reads as $00, the power-on contents of R40. -/
abbrev Memory := List Host.Cell

/-- The entry at a key. -/
def Cells.find? {α : Type} : Cells α → Nat → Option α
  | [], _ => none
  | c :: m, k => if c.1 = k then some c.2 else Cells.find? m k

/-- The value at a key, `d` where nothing is listed. -/
def Cells.read {α : Type} (d : α) (m : Cells α) (k : Nat) : α := (Cells.find? m k).getD d

/-- The table without its entry at `k`. -/
def Cells.erase {α : Type} : Cells α → Nat → Cells α
  | [], _ => []
  | c :: m, k => if c.1 = k then Cells.erase m k else c :: Cells.erase m k

/-- The table with the entry `(k, v)`, in its place by key. -/
def Cells.insert {α : Type} : Cells α → Nat → α → Cells α
  | [], k, v => [(k, v)]
  | c :: m, k, v =>
    if k < c.1 then (k, v) :: c :: m
    else if c.1 = k then (k, v) :: m
    else c :: Cells.insert m k v

/-- Write `v` at `k`; writing the default removes the entry. -/
def Cells.write {α : Type} [DecidableEq α] (d : α) (m : Cells α) (k : Nat) (v : α) : Cells α :=
  if v = d then Cells.erase m k else Cells.insert m k v

/-- The canonical form of a table of `size` keys with default `d`. -/
abbrev Cells.wf {α : Type} (size : Nat) (d : α) (m : Cells α) : Prop :=
  m.Pairwise (fun b c => b.1 < c.1) ∧ ∀ c ∈ m, c.1 < size ∧ c.2 ≠ d

/-- One byte of a memory. -/
def Memory.read (m : Memory) (k : Nat) : Byte := Cells.read 0 m k

/-- Write one byte of a memory. -/
def Memory.write (m : Memory) (k : Nat) (b : Byte) : Memory := Cells.write 0 m k b

/-- The canonical form of a memory of `size` bytes. -/
abbrev Memory.wf (size : Nat) (m : Memory) : Prop := Cells.wf size (0 : Byte) m

/-- The colour index in column `x` of row `y` of a frame buffer (R36). -/
def Grid.read (g : Grid) (y x : Nat) : Color := Cells.read 0 (Cells.read [] g y) x

/-- Write one element of a frame buffer. -/
def Grid.write (g : Grid) (y x : Nat) (c : Color) : Grid :=
  Cells.write [] g y (Cells.write 0 (Cells.read [] g y) x c)

/-- The canonical form of a 256 by 240 frame buffer. -/
abbrev Grid.wf (g : Grid) : Prop := Cells.wf 240 [] g ∧ ∀ r ∈ g, Cells.wf 256 (0 : Color) r.2

end Sys2Proof.Machine
end

