-- ==== Sys2Proof/Machine/Env.lean ====
section
/-! DEFINITION. The environment as plain data (spec 20_memory.md R60 to R66, 10_state.md R37): what is known of the
cartridge and of the input/output range, the level of `irq_line`, `MIRROR`, the host's pending call of Reset, and the
token that stands for the rest of the environment's own state. Whatever is not known is answered by a free value of
Config, so the environment is arbitrary there (log entries 1 to 5, 13). -/

namespace Sys2Proof.Machine

/-- What is known of one window onto the environment. `cells`: the addresses whose byte is known; `other`: what every
other address answers, absent where that is the environment's free value; `writable`: whether a write handed over
changes the byte (R87's `TESTCART`) or not (a read-only image, R61). -/
structure Image where
  cells    : Memory
  other    : Option Byte
  writable : Bool
  deriving DecidableEq, Repr

/-- The environment. -/
structure Env where
  /-- The environment's hidden state: the argument of its free values. -/
  token          : Nat
  /-- Known answers of `CartCpuRead` (R61), by CPU address. -/
  prg            : Image
  /-- Known answers of `CartPpuRead` (R63), by PPU address. -/
  chr            : Image
  /-- Known answers of `IoRead` (R60), by CPU address. -/
  io             : Image
  /-- The level of `irq_line` (R22); absent: a free value at every sample. -/
  irqLine        : Option Bool
  /-- `MIRROR` (R65). -/
  mirror         : Mirroring
  /-- The host has called `Reset` since the last global step (R318). -/
  resetRequested : Bool
  deriving DecidableEq, Repr

/-- A window of which nothing is known. -/
def Image.unknown : Image := { cells := [], other := none, writable := false }

/-- An environment of which nothing is known: every answer and every level is free. -/
def Env.unknown : Env :=
  { token := 0, prg := Image.unknown, chr := Image.unknown, io := Image.unknown,
    irqLine := none, mirror := Config.mirror, resetRequested := false }

/-- `TESTCART` (R87) with the program and pattern bytes that are not $00. -/
def Env.testcart (prg chr : Memory) : Env :=
  { token := 0,
    prg := { cells := prg, other := some 0, writable := true },
    chr := { cells := chr, other := some 0, writable := true },
    io := { cells := [], other := some 0, writable := false },
    irqLine := some false, mirror := .vertical, resetRequested := false }

/-- The answer known for an address. -/
def Image.answer (m : Image) (a : Nat) : Option Byte :=
  match Cells.find? m.cells a with
  | some b => some b
  | none => m.other

/-- The image with byte `b` known at `a`, whatever was known there. -/
def Image.put (m : Image) (a : Nat) (b : Byte) : Image :=
  match m.other with
  | some d => { m with cells := Cells.write d m.cells a b }
  | none => { m with cells := Cells.insert m.cells a b }

/-- The image after a write handed to the environment. -/
def Image.store (m : Image) (a : Nat) (b : Byte) : Image := if m.writable then m.put a b else m

/-- The canonical form of an image of `size` addresses. -/
abbrev Image.wf (size : Nat) (m : Image) : Prop :=
  m.cells.Pairwise (fun b c => b.1 < c.1) ∧ ∀ c ∈ m.cells, c.1 < size ∧ some c.2 ≠ m.other

/-- The environment after a contact. -/
def Env.after (e : Env) (v : EnvEvent) : Env := { e with token := Config.envNext e.token v }

/-- `CartCpuRead(addr)` (R61). -/
def cartCpuRead (a : Addr) (e : Env) : Byte × Env :=
  ((e.prg.answer a.toNat).getD (Config.freeCartCpuByte e.token a), e.after (.cartCpuRead a))

/-- `CartCpuWrite(addr, v)` (R62): no state of the core changes. -/
def cartCpuWrite (a : Addr) (b : Byte) (e : Env) : Env :=
  { e.after (.cartCpuWrite a b) with prg := e.prg.store a.toNat b }

/-- `CartPpuRead(a)` (R63), `a` in $0000 to $1FFF. -/
def cartPpuRead (a : Nat) (e : Env) : Byte × Env :=
  ((e.chr.answer a).getD (Config.freeCartPpuByte e.token a), e.after (.cartPpuRead a))

/-- `CartPpuWrite(a, v)` (R64): no state of the core changes. -/
def cartPpuWrite (a : Nat) (b : Byte) (e : Env) : Env :=
  { e.after (.cartPpuWrite a b) with chr := e.chr.store a b }

/-- `IoRead(addr)` (R60). -/
def ioRead (a : Addr) (e : Env) : Byte × Env :=
  ((e.io.answer a.toNat).getD (Config.freeIoByte e.token a), e.after (.ioRead a))

/-- `IoWrite(addr, v)` (R60): no state of the core changes. -/
def ioWrite (a : Addr) (b : Byte) (e : Env) : Env :=
  { e.after (.ioWrite a b) with io := e.io.store a.toNat b }

/-- A sample of `irq_line` (R22, R305). -/
def irqSample (e : Env) : Bool × Env :=
  (e.irqLine.getD (Config.freeIrqLevel e.token), e.after .irqSample)

end Sys2Proof.Machine
end

