-- ==== Sys2Proof/Machine/State.lean ====
section
/-! DEFINITION. The state of the machine (spec 10_state.md R10 to R36), as plain data, the reasons a step can stop, and
the state after power-on (R40, R360). INVENTORY.md lists every field with its rule. -/

namespace Sys2Proof.Machine

/-- The control flags decoded from the last write to $2000 (R27), `nmi_output` apart. -/
structure Control where
  nametable       : BitVec 2
  increment       : Bool
  spriteTable     : Bool
  backgroundTable : Bool
  spriteSize      : Bool
  masterSlave     : Bool
  deriving DecidableEq, Repr

/-- The mask flags decoded from the last write to $2001 (R28). -/
structure Mask where
  grayscale          : Bool
  showLeftBackground : Bool
  showLeftSprites    : Bool
  showBackground     : Bool
  showSprites        : Bool
  redTint            : Bool
  greenTint          : Bool
  blueTint           : Bool
  deriving DecidableEq, Repr

/-- One sprite slot (R34): eight 4-bit pixels, the leftmost in bits 31:28; X; 1 = behind the background; OAM entry. -/
structure SpriteSlot where
  pattern  : BitVec 32
  position : Byte
  priority : Bool
  index    : Byte
  deriving DecidableEq, Repr

/-- The picture processor: counters (R24), scroll and address registers (R25, R26), control, mask and status flags
(R27 to R29), latches (R30, R31), the NMI edge detector (R32), fetch latches (R33), sprite slots (R34), memories (R35),
frame buffers (R36). `framesSent` is the model's own field: the frame sink as a counter (R317, log entry 6). -/
structure Ppu where
  cycle          : Nat
  scanline       : Nat
  frame          : Nat
  f              : Bool
  v              : BitVec 15
  t              : BitVec 15
  x              : BitVec 3
  w              : Bool
  control        : Control
  nmiOutput      : Bool
  mask           : Mask
  spriteOverflow : Bool
  spriteZeroHit  : Bool
  nmiOccurred    : Bool
  ioLatch        : Byte
  oamAddr        : Byte
  bufferedData   : Byte
  nmiPrev        : Bool
  nmiDelay       : Nat
  nametableByte  : Byte
  attributeByte  : Byte
  lowTileByte    : Byte
  highTileByte   : Byte
  tileData       : BitVec 64
  spriteCount    : Nat
  sprites        : Vector SpriteSlot 8
  palette        : Memory
  nametable      : Memory
  oam            : Memory
  front          : Grid
  back           : Grid
  framesSent     : Nat
  deriving DecidableEq, Repr

/-- The part of the state the PPU works on: itself and the environment. -/
structure Video where
  ppu : Ppu
  env : Env
  deriving DecidableEq, Repr

/-- The state of the core with its environment. `p` is the status byte of R14. -/
structure State where
  a          : Byte
  x          : Byte
  y          : Byte
  pc         : Addr
  sp         : Byte
  p          : Byte
  cycles     : Nat
  stall      : Nat
  nmiPending : Bool
  ram        : Memory
  ppu        : Ppu
  env        : Env
  deriving DecidableEq, Repr

/-- Why a step faults: never. The spec has no synchronous fault and no stuck state (60_exceptions.md R331): every
opcode byte and every address is legal. Safe: there is nothing to raise (log entry 19). -/
inductive Fault where
  deriving DecidableEq, Repr

/-- Why the model refuses an instruction. -/
inductive Refusal where
  /-- Raised by `exec`'s arm of an instruction that has no meaning yet; no arm is one. Safe: the run stops. -/
  | notModelled (mnemonic : String)
  deriving DecidableEq, Repr

/-- What every meaning and every step answers. -/
abbrev Result := Host.Outcome State Fault Refusal

/-- All control flags 0. -/
def Control.zero : Control := ⟨0, false, false, false, false, false⟩

/-- All mask flags 0. -/
def Mask.zero : Mask := ⟨false, false, false, false, false, false, false, false⟩

/-- The PPU after power-on (R40). -/
def Ppu.reset : Ppu :=
  { cycle := 340, scanline := 240, frame := 0, f := false,
    v := 0, t := 0, x := 0, w := false,
    control := Control.zero, nmiOutput := false, mask := Mask.zero,
    spriteOverflow := false, spriteZeroHit := false, nmiOccurred := false,
    ioLatch := 0, oamAddr := 0, bufferedData := 0, nmiPrev := false, nmiDelay := 0,
    nametableByte := 0, attributeByte := 0, lowTileByte := 0, highTileByte := 0, tileData := 0,
    spriteCount := 0, sprites := Vector.replicate 8 ⟨0, 0, false, 0⟩,
    palette := [], nametable := [], oam := [], front := [], back := [], framesSent := 0 }

/-- The machine after power-on (R40, R360) in an environment of which nothing is known (log entries 2, 7): `PC` is
`Read16($FFFC)` (R56), low byte first, as the cartridge answers it. -/
def State.reset : State :=
  let low := cartCpuRead 0xFFFC Env.unknown
  let high := cartCpuRead 0xFFFD low.2
  { a := 0, x := 0, y := 0, pc := high.1 ++ low.1, sp := 0xFD, p := 0x24,
    cycles := 7, stall := 0, nmiPending := false, ram := [], ppu := Ppu.reset, env := high.2 }

end Sys2Proof.Machine
end

