-- ==== Sys2Proof/Machine/Nmi.lean ====
section
/-! DEFINITION. The NMI edge detector between PPU and CPU (spec 60_exceptions.md R340 to R343). -/

namespace Sys2Proof.Machine

/-- `nmi_output AND nmi_occurred`: the level the detector watches (R340). -/
def Ppu.nmiLevel (p : Ppu) : Bool := p.nmiOutput && p.nmiOccurred

/-- `NmiChange()` (R340): a rising edge starts the countdown; the level is recorded. -/
def nmiChange (p : Ppu) : Ppu :=
  { p with
    nmiDelay := if p.nmiLevel && !p.nmiPrev then Config.nmiDelay else p.nmiDelay
    nmiPrev := p.nmiLevel }

/-- `NmiDelayTick()` (R341), once at the end of every global step. -/
def nmiDelayTick (s : State) : State :=
  if 0 < s.ppu.nmiDelay then
    { s with
      ppu := { s.ppu with nmiDelay := s.ppu.nmiDelay - 1 }
      nmiPending := s.nmiPending || (s.ppu.nmiDelay == 1 && s.ppu.nmiLevel) }
  else s

end Sys2Proof.Machine
end

