-- ==== Sys2Proof/Machine/PpuBus.lean ====
section
/-! DEFINITION. The PPU-facing bus (spec 20_memory.md R69 to R75): routing, nametable mirroring, the palette fold. -/

namespace Sys2Proof.Machine

/-- `LOOKUP[mode][table]` of R72: which half of the nametable RAM a logical nametable is. -/
def mirrorTable : Mirroring → Nat → Nat
  | .horizontal, table => table / 2
  | .vertical, table => table % 2
  | .single0, _ => 0
  | .single1, _ => 1

/-- `MirrorAddress(mode, a)` (R72), `a` in $2000 to $3EFF. -/
def mirrorAddress (mode : Mirroring) (a : Nat) : Nat :=
  let r := (a - 0x2000) % 0x1000
  mirrorTable mode (r / 0x400) * 0x400 + r % 0x400

/-- The fold of R73 and R74: 16, 20, 24, 28 onto 0, 4, 8, 12. -/
def paletteIndex (i : Nat) : Nat := if 16 ≤ i ∧ i % 4 = 0 then i - 16 else i

/-- `ReadPalette(i)` (R73), `i` in 0 to 31. -/
def readPalette (i : Nat) (p : Ppu) : Byte := p.palette.read (paletteIndex i)

/-- `WritePalette(i, v)` (R74), `i` in 0 to 31. -/
def writePalette (i : Nat) (b : Byte) (p : Ppu) : Ppu := { p with palette := p.palette.write (paletteIndex i) b }

/-- `PpuRead(addr)` (R70). Only the environment can change by it. -/
def ppuRead (addr : Addr) (p : Ppu) (e : Env) : Byte × Env :=
  let a := addr.toNat % 0x4000
  if a < 0x2000 then cartPpuRead a e
  else if a < 0x3F00 then (p.nametable.read (mirrorAddress e.mirror a), e)
  else (readPalette (a % 32) p, e)

/-- `PpuWrite(addr, v)` (R71). -/
def ppuWrite (addr : Addr) (b : Byte) (g : Video) : Video :=
  let a := addr.toNat % 0x4000
  if a < 0x2000 then { g with env := cartPpuWrite a b g.env }
  else if a < 0x3F00 then
    { g with ppu := { g.ppu with nametable := g.ppu.nametable.write (mirrorAddress g.env.mirror a) b } }
  else { g with ppu := writePalette (a % 32) b g.ppu }

/-- `oam[i]` (R35, R75). -/
def oamByte (p : Ppu) (i : Nat) : Byte := p.oam.read i

end Sys2Proof.Machine
end

