-- ==== Sys2Proof/Machine/Ports.lean ====
section
/-! DEFINITION. The PPU ports $2000 to $2007 (spec 45_ppu_registers.md R220 to R240). -/

namespace Sys2Proof.Machine

/-- `WriteControl(v)` (R221). -/
def writeControl (b : Byte) (p : Ppu) : Ppu :=
  let q := nmiChange
    { p with
      control :=
        { nametable := b.extractLsb' 0 2
          increment := b.getLsbD 2
          spriteTable := b.getLsbD 3
          backgroundTable := b.getLsbD 4
          spriteSize := b.getLsbD 5
          masterSlave := b.getLsbD 6 }
      nmiOutput := b.getLsbD 7 }
  { q with t := (q.t &&& 0x73FF) ||| ((b &&& 0x03).setWidth 15 <<< 10) }

/-- `WriteMask(v)` (R223). -/
def writeMask (b : Byte) (p : Ppu) : Ppu :=
  { p with
    mask :=
      { grayscale := b.getLsbD 0
        showLeftBackground := b.getLsbD 1
        showLeftSprites := b.getLsbD 2
        showBackground := b.getLsbD 3
        showSprites := b.getLsbD 4
        redTint := b.getLsbD 5
        greenTint := b.getLsbD 6
        blueTint := b.getLsbD 7 } }

/-- Rendering is enabled (R224). -/
def Ppu.rendering (p : Ppu) : Bool := p.mask.showBackground || p.mask.showSprites

/-- The byte a status read returns (R225): the latch's low five bits and the three flags. -/
def statusByte (p : Ppu) : Byte :=
  putBit 7 p.nmiOccurred (putBit 6 p.spriteZeroHit (putBit 5 p.spriteOverflow (p.ioLatch &&& 0x1F)))

/-- `ReadStatus()` (R225). -/
def readStatus (p : Ppu) : Byte × Ppu :=
  (statusByte p, { nmiChange { p with nmiOccurred := false } with w := false })

/-- `WriteOamAddress(v)` (R226). -/
def writeOamAddress (b : Byte) (p : Ppu) : Ppu := { p with oamAddr := b }

/-- `ReadOamData()` (R227): bits 4:2 of an attribute byte read as 0. -/
def readOamData (p : Ppu) : Byte :=
  let d := oamByte p p.oamAddr.toNat
  if p.oamAddr.toNat % 4 = 2 then d &&& 0xE3 else d

/-- `WriteOamData(v)` (R228). -/
def writeOamData (b : Byte) (p : Ppu) : Ppu :=
  { p with oam := p.oam.write p.oamAddr.toNat b, oamAddr := p.oamAddr + 1 }

/-- `WriteScroll(v)` (R229 when `w = 0`, R230 when `w = 1`). -/
def writeScroll (b : Byte) (p : Ppu) : Ppu :=
  if p.w then
    let t1 := (p.t &&& 0x0FFF) ||| ((b &&& 0x07).setWidth 15 <<< 12)
    { p with t := (t1 &&& 0x7C1F) ||| ((b >>> 3).setWidth 15 <<< 5), w := false }
  else
    { p with t := (p.t &&& 0x7FE0) ||| (b >>> 3).setWidth 15, x := b.extractLsb' 0 3, w := true }

/-- `WriteAddress(v)` (R231 when `w = 0`, R232 when `w = 1`). -/
def writeAddress (b : Byte) (p : Ppu) : Ppu :=
  if p.w then
    let t1 := (p.t &&& 0x7F00) ||| b.setWidth 15
    { p with t := t1, v := t1, w := false }
  else
    { p with t := (p.t &&& 0x00FF) ||| ((b &&& 0x3F).setWidth 15 <<< 8), w := true }

/-- `IncrementV()` (R235), modulo $8000 by the width of `v`. -/
def incrementV (p : Ppu) : Ppu := { p with v := p.v + (if p.control.increment then 32 else 1) }

/-- `ReadData()` (R233): buffered by one read below the palette, at once from it. -/
def readData (g : Video) : Byte × Video :=
  let r := ppuRead (g.ppu.v.setWidth 16) g.ppu g.env
  if g.ppu.v.toNat % 0x4000 < 0x3F00 then
    (g.ppu.bufferedData, { ppu := incrementV { g.ppu with bufferedData := r.1 }, env := r.2 })
  else
    let u := ppuRead ((g.ppu.v - 0x1000).setWidth 16) g.ppu r.2
    (r.1, { ppu := incrementV { g.ppu with bufferedData := u.1 }, env := u.2 })

/-- `WriteData(val)` (R234). -/
def writeData (b : Byte) (g : Video) : Video :=
  let h := ppuWrite (g.ppu.v.setWidth 16) b g
  { h with ppu := incrementV h.ppu }

/-- `PortRead(p)` (R220) by the port's number; the write-only ports answer the latch (R238). -/
def portRead (n : Nat) (g : Video) : Byte × Video :=
  match n with
  | 2 => let r := readStatus g.ppu; (r.1, { g with ppu := r.2 })
  | 4 => (readOamData g.ppu, g)
  | 7 => readData g
  | _ => (g.ppu.ioLatch, g)

/-- The port's own effect in `PortWrite` (R220); a write to $2002 has none (R239). -/
def portEffect (n : Nat) (b : Byte) (g : Video) : Video :=
  match n with
  | 0 => { g with ppu := writeControl b g.ppu }
  | 1 => { g with ppu := writeMask b g.ppu }
  | 3 => { g with ppu := writeOamAddress b g.ppu }
  | 4 => { g with ppu := writeOamData b g.ppu }
  | 5 => { g with ppu := writeScroll b g.ppu }
  | 6 => { g with ppu := writeAddress b g.ppu }
  | 7 => writeData b g
  | _ => g

/-- `PortWrite(p, v)` (R220): the latch first (R237), then the port's own effect. -/
def portWrite (n : Nat) (b : Byte) (g : Video) : Video :=
  portEffect n b { g with ppu := { g.ppu with ioLatch := b } }

end Sys2Proof.Machine
end

