-- ==== Sys2Proof/Machine/Render.lean ====
section
/-! DEFINITION. The PPU rendering pipeline (spec 46_ppu_render_pipeline.md R250 to R292): one dot at a time. -/

namespace Sys2Proof.Machine

/-- The wrap from scanline 261 to 0 (R251): `frame` counts and `f` flips. -/
def nextFrame (p : Ppu) : Ppu := { p with cycle := 0, scanline := 0, frame := p.frame + 1, f := !p.f }

/-- `Tick()` (R251). -/
def tick (p : Ppu) : Ppu :=
  if Config.oddFrameSkip && p.rendering && p.f && p.scanline == 261 && p.cycle == 339 then nextFrame p
  else if 340 < p.cycle + 1 then
    if 261 < p.scanline + 1 then nextFrame p
    else { p with cycle := 0, scanline := p.scanline + 1 }
  else { p with cycle := p.cycle + 1 }

/-- `pre_line` of R250. -/
def Ppu.preLine (p : Ppu) : Bool := p.scanline == 261

/-- `visible_line` of R250. -/
def Ppu.visibleLine (p : Ppu) : Bool := p.scanline < 240

/-- `render_line` of R250. -/
def Ppu.renderLine (p : Ppu) : Bool := p.preLine || p.visibleLine

/-- `prefetch_dot` of R250. -/
def Ppu.prefetchDot (p : Ppu) : Bool := 321 ≤ p.cycle && p.cycle ≤ 336

/-- `visible_dot` of R250. -/
def Ppu.visibleDot (p : Ppu) : Bool := 1 ≤ p.cycle && p.cycle ≤ 256

/-- `fetch_dot` of R250. -/
def Ppu.fetchDot (p : Ppu) : Bool := p.prefetchDot || p.visibleDot

/-- Fine Y, `v[14:12]` (R26). -/
def fineY (v : BitVec 15) : BitVec 3 := v.extractLsb' 12 3

/-- The nametable address of `v` (R260). -/
def nametableAddress (v : BitVec 15) : Addr := 0x2000 ||| (v &&& 0x0FFF).setWidth 16

/-- The attribute-table address of `v` (R261). -/
def attributeAddress (v : BitVec 15) : Addr :=
  0x23C0 ||| ((v &&& 0x0C00) ||| ((v >>> 4) &&& 0x38) ||| ((v >>> 2) &&& 0x07)).setWidth 16

/-- The quadrant shift of `v` (R261): 0, 2, 4 or 6. -/
def attributeShift (v : BitVec 15) : Nat := (((v >>> 4) &&& 4) ||| (v &&& 2)).toNat

/-- The low bit plane's address of the tile row (R262). -/
def tileAddress (p : Ppu) : Addr :=
  (if p.control.backgroundTable then 0x1000 else 0) + (zext16 p.nametableByte <<< 4) + (fineY p.v).setWidth 16

/-- `FetchNametableByte()` (R260). -/
def fetchNametableByte (g : Video) : Video :=
  let r := ppuRead (nametableAddress g.ppu.v) g.ppu g.env
  { ppu := { g.ppu with nametableByte := r.1 }, env := r.2 }

/-- `FetchAttributeByte()` (R261): the palette number in bits 3:2. -/
def fetchAttributeByte (g : Video) : Video :=
  let r := ppuRead (attributeAddress g.ppu.v) g.ppu g.env
  { ppu := { g.ppu with attributeByte := ((r.1 >>> attributeShift g.ppu.v) &&& 3) <<< 2 }, env := r.2 }

/-- `FetchLowTileByte()` (R262). -/
def fetchLowTileByte (g : Video) : Video :=
  let r := ppuRead (tileAddress g.ppu) g.ppu g.env
  { ppu := { g.ppu with lowTileByte := r.1 }, env := r.2 }

/-- `FetchHighTileByte()` (R263). -/
def fetchHighTileByte (g : Video) : Video :=
  let r := ppuRead (tileAddress g.ppu + 8) g.ppu g.env
  { ppu := { g.ppu with highTileByte := r.1 }, env := r.2 }

/-- One 4-bit pixel: palette bits `pal`, bit `j` of the two bit planes (R264, R272; log entry 20). -/
def planePixel (pal low high : Byte) (j : Nat) : BitVec 4 :=
  (pal ||| (if low.getLsbD j then 1 else 0) ||| (if high.getLsbD j then 2 else 0)).setWidth 4

/-- Eight 4-bit pixels, pixel 0 in the most significant nibble (R264, R272). -/
def packPixels (pixel : Nat → BitVec 4) : BitVec 32 :=
  (List.range 8).foldl (fun d k => (d <<< 4) ||| (pixel k).setWidth 32) 0

/-- `StoreTileData()` (R264). -/
def storeTileData (p : Ppu) : Ppu :=
  { p with tileData := p.tileData |||
      (packPixels fun i => planePixel p.attributeByte p.lowTileByte p.highTileByte (7 - i)).setWidth 64 }

/-- `IncrementX()` on `v` (R265). -/
def incrementX (v : BitVec 15) : BitVec 15 :=
  if v &&& 0x001F = 31 then (v &&& 0x7FE0) ^^^ 0x0400 else v + 1

/-- `IncrementY()` on `v` (R266). -/
def incrementY (v : BitVec 15) : BitVec 15 :=
  if fineY v ≠ 7 then v + 0x1000
  else
    let u := v &&& 0x0FFF
    let row := (v >>> 5) &&& 0x001F
    if row = 29 then (u &&& 0x7C1F) ^^^ 0x0800
    else if row = 31 then u &&& 0x7C1F
    else (u &&& 0x7C1F) ||| ((row + 1) <<< 5)

/-- `CopyX()` (R267). -/
def copyX (v t : BitVec 15) : BitVec 15 := (v &&& 0x7BE0) ||| (t &&& 0x041F)

/-- `CopyY()` (R268). -/
def copyY (v t : BitVec 15) : BitVec 15 := (v &&& 0x041F) ||| (t &&& 0x7BE0)

/-- Sprite height: 16 or 8 (R271). -/
def spriteHeight (p : Ppu) : Nat := if p.control.spriteSize then 16 else 8

/-- The low bit plane's address of row `row` of OAM sprite `i` (R272). -/
def spriteAddress (p : Ppu) (i row : Nat) : Addr :=
  let tile := oamByte p (4 * i + 1)
  let flip := (oamByte p (4 * i + 2)).getLsbD 7
  if p.control.spriteSize then
    let r := if flip then 15 - row else row
    let table : Addr := if tile.getLsbD 0 then 0x1000 else 0
    let even := tile &&& 0xFE
    if 7 < r then table + (zext16 (even + 1) <<< 4) + BitVec.ofNat 16 (r - 8)
    else table + (zext16 even <<< 4) + BitVec.ofNat 16 r
  else
    let r := if flip then 7 - row else row
    (if p.control.spriteTable then 0x1000 else 0) + (zext16 tile <<< 4) + BitVec.ofNat 16 r

/-- The eight pixels of a sprite row from its attributes and bit planes (R272). -/
def spritePixels (attr low high : Byte) : BitVec 32 :=
  packPixels fun k => planePixel ((attr &&& 3) <<< 2) low high (if attr.getLsbD 6 then k else 7 - k)

/-- `FetchSpritePattern(i, row)` (R272). -/
def fetchSpritePattern (i row : Nat) (p : Ppu) (e : Env) : BitVec 32 × Env :=
  let low := ppuRead (spriteAddress p i row) p e
  let high := ppuRead (spriteAddress p i row + 8) p low.2
  (spritePixels (oamByte p (4 * i + 2)) low.1 high.1, high.2)

/-- OAM sprite `i` covers the current scanline (R271). -/
def spriteInRange (p : Ppu) (i : Nat) : Bool :=
  (oamByte p (4 * i)).toNat ≤ p.scanline && p.scanline - (oamByte p (4 * i)).toNat < spriteHeight p

/-- One turn of the scan of R271: the count so far and the PPU. -/
def evaluateSprite (acc : Nat × Video) (i : Nat) : Nat × Video :=
  let p := acc.2.ppu
  if spriteInRange p i then
    if acc.1 < 8 then
      let r := fetchSpritePattern i (p.scanline - (oamByte p (4 * i)).toNat) p acc.2.env
      let slot : SpriteSlot :=
        { pattern := r.1, position := oamByte p (4 * i + 3),
          priority := (oamByte p (4 * i + 2)).getLsbD 5, index := BitVec.ofNat 8 i }
      (acc.1 + 1, { ppu := { p with sprites := p.sprites.setIfInBounds acc.1 slot }, env := r.2 })
    else (acc.1 + 1, acc.2)
  else acc

/-- `EvaluateSprites()` (R271, R275): the plain count; a ninth sprite in range sets the overflow flag. -/
def evaluateSprites (g : Video) : Video :=
  let r := (List.range 64).foldl evaluateSprite (0, g)
  { r.2 with ppu :=
      { r.2.ppu with
        spriteCount := min r.1 8
        spriteOverflow := r.2.ppu.spriteOverflow || decide (8 < r.1) } }

/-- `BackgroundPixel()` (R278). -/
def backgroundPixel (p : Ppu) : BitVec 4 :=
  if p.mask.showBackground then (p.tileData >>> (32 + (7 - p.x.toNat) * 4)).setWidth 4 else 0

/-- A sprite slot by number; beyond the eight, an empty one (log entry 17). -/
def spriteSlot (p : Ppu) (i : Nat) : SpriteSlot := p.sprites[i]?.getD ⟨0, 0, false, 0⟩

/-- Pattern bits 1:0 are not 0: the pixel is opaque (R279, R280). -/
def opaquePixel (c : BitVec 4) : Bool := c.toNat % 4 ≠ 0

/-- The pixel of slot `i` at this dot, 0 outside its eight columns (R279). -/
def slotPixel (p : Ppu) (i : Nat) : BitVec 4 :=
  let left := (spriteSlot p i).position.toNat
  let px := p.cycle - 1
  if left ≤ px ∧ px - left ≤ 7 then ((spriteSlot p i).pattern >>> ((7 - (px - left)) * 4)).setWidth 4 else 0

/-- `SpritePixel()` (R279): the first slot with an opaque pixel at this dot. -/
def spritePixel (p : Ppu) : Nat × BitVec 4 :=
  if p.mask.showSprites then
    match (List.range p.spriteCount).find? (fun i => opaquePixel (slotPixel p i)) with
    | some i => (i, slotPixel p i)
    | none => (0, 0)
  else (0, 0)

/-- The multiplexer's colour (R280): 5 bits, bit 4 for a sprite. -/
def muxColor (bg sp : BitVec 4) (behind : Bool) : Nat :=
  match opaquePixel bg, opaquePixel sp with
  | false, false => 0
  | false, true => sp.toNat + 16
  | true, false => bg.toNat
  | true, true => if behind then bg.toNat else sp.toNat + 16

/-- `RenderPixel()` (R280 to R282). -/
def renderPixel (p : Ppu) : Ppu :=
  let px := p.cycle - 1
  let found := spritePixel p
  let bg := if px < 8 ∧ p.mask.showLeftBackground = false then 0 else backgroundPixel p
  let sp := if px < 8 ∧ p.mask.showLeftSprites = false then 0 else found.2
  let slot := spriteSlot p found.1
  let hit := opaquePixel bg && opaquePixel sp && slot.index == 0 && decide (px < 255)
  { p with
    spriteZeroHit := p.spriteZeroHit || hit
    back := Grid.write p.back p.scanline px ((readPalette (muxColor bg sp slot.priority) p).setWidth 6) }

/-- `SetVerticalBlank()` (R290): exchange the buffers, hand `front` to the sink (R317), raise the flag. -/
def setVerticalBlank (g : Video) : Video :=
  { ppu := nmiChange
      { g.ppu with
        front := g.ppu.back
        back := g.ppu.front
        framesSent := g.ppu.framesSent + 1
        nmiOccurred := true }
    env := g.env.after (.frameSink g.ppu.back) }

/-- `ClearVerticalBlank()` (R291). -/
def clearVerticalBlank (p : Ppu) : Ppu :=
  { nmiChange { p with nmiOccurred := false } with spriteZeroHit := false, spriteOverflow := false }

/-- The fetch of a dot by `cycle mod 8` (R250). -/
def fetchCase (g : Video) : Video :=
  match g.ppu.cycle % 8 with
  | 1 => fetchNametableByte g
  | 3 => fetchAttributeByte g
  | 5 => fetchLowTileByte g
  | 7 => fetchHighTileByte g
  | 0 => { g with ppu := storeTileData g.ppu }
  | _ => g

/-- Shift one pixel and fetch, on the fetch dots of a render line (R250). -/
def fetchStage (g : Video) : Video :=
  if g.ppu.renderLine && g.ppu.fetchDot then
    fetchCase { g with ppu := { g.ppu with tileData := g.ppu.tileData <<< 4 } }
  else g

/-- The scroll updates of a dot (R250), in the order written there. -/
def scrollStage (p : Ppu) : Ppu :=
  let v1 := if p.preLine && (280 ≤ p.cycle && p.cycle ≤ 304) then copyY p.v p.t else p.v
  let v2 := if p.renderLine && p.fetchDot && p.cycle % 8 == 0 then incrementX v1 else v1
  let v3 := if p.renderLine && p.cycle == 256 then incrementY v2 else v2
  let v4 := if p.renderLine && p.cycle == 257 then copyX v3 p.t else v3
  { p with v := v4 }

/-- Sprite evaluation at dot 257 (R250). -/
def spriteStage (g : Video) : Video :=
  if g.ppu.cycle == 257 then
    if g.ppu.visibleLine then evaluateSprites g else { g with ppu := { g.ppu with spriteCount := 0 } }
  else g

/-- What a dot does when rendering is enabled (R250, R283). -/
def renderStage (g : Video) : Video :=
  if g.ppu.rendering then
    let h := fetchStage g
    spriteStage { h with ppu := scrollStage h.ppu }
  else g

/-- The pixel of a visible dot, before this dot's shift (R250). -/
def pixelStage (p : Ppu) : Ppu := if p.visibleLine && p.visibleDot then renderPixel p else p

/-- The vertical-blank flag's two dots (R250, R290, R291). -/
def vblankStage (g : Video) : Video :=
  if g.ppu.scanline == 241 && g.ppu.cycle == 1 then setVerticalBlank g
  else if g.ppu.preLine && g.ppu.cycle == 1 then { g with ppu := clearVerticalBlank g.ppu }
  else g

/-- `PpuStep()` (R250): move the counters, then act on the new position. -/
def ppuStep (g : Video) : Video := vblankStage (renderStage { g with ppu := pixelStage (tick g.ppu) })

/-- `n` dots. -/
def ppuSteps : Nat → Video → Video
  | 0, g => g
  | n + 1, g => ppuSteps n (ppuStep g)

end Sys2Proof.Machine
end

