-- ==== Sys2Proof/Machine/Ops.lean ====
section
/-! DEFINITION. The named operations over registers and memory that every instruction is made of: field updates, the
CPU-facing bus (20_memory.md R52 to R59), OAM DMA (47 R315, R316), the stack (10_state.md R17, R18), taking an
interrupt and returning from one (60_exceptions.md R335, 43 R183), power-on and reset (70 R360, R361). -/

namespace Sys2Proof.Machine

/-- `A <- v`. -/
def State.setA (b : Byte) (s : State) : State := { s with a := b }

/-- `X <- v`. -/
def State.setX (b : Byte) (s : State) : State := { s with x := b }

/-- `Y <- v`. -/
def State.setY (b : Byte) (s : State) : State := { s with y := b }

/-- `PC <- w`. -/
def State.setPC (w : Addr) (s : State) : State := { s with pc := w }

/-- `SP <- v`. -/
def State.setSP (b : Byte) (s : State) : State := { s with sp := b }

/-- `P <- v`. -/
def State.setP (b : Byte) (s : State) : State := { s with p := b }

/-- `cycles <- cycles + n`. -/
def State.addCycles (n : Nat) (s : State) : State := { s with cycles := s.cycles + n }

/-- `stall <- n`. -/
def State.setStall (n : Nat) (s : State) : State := { s with stall := n }

/-- `nmi_pending <- b`. -/
def State.setNmiPending (b : Bool) (s : State) : State := { s with nmiPending := b }

/-- `ram <- m`. -/
def State.setRam (m : Memory) (s : State) : State := { s with ram := m }

/-- The PPU and the environment replaced. -/
def State.setVideo (g : Video) (s : State) : State := { s with ppu := g.ppu, env := g.env }

/-- The environment replaced. -/
def State.setEnv (e : Env) (s : State) : State := { s with env := e }

/-- The part of the state the PPU works on. -/
def State.video (s : State) : Video := { ppu := s.ppu, env := s.env }

/-- The index into `ram` of an address below $2000: bits 12:11 do not count (R54). -/
def ramIndex (a : Addr) : Nat := a.toNat % 0x0800

/-- The RAM byte a CPU address below $2000 reaches (R54). -/
def State.ramByte (s : State) (a : Addr) : Byte := s.ram.read (ramIndex a)

/-- The port's number of an address in $2000 to $3FFF: bits 12:3 do not count (R55). -/
def portNumber (a : Addr) : Nat := a.toNat % 8

/-- `MemRead(addr, 1)` (R52): the byte, and the state after the read's side effects (R68). -/
def memRead (a : Addr) (s : State) : Byte × State :=
  if a < 0x2000 then (s.ramByte a, s)
  else if a < 0x4000 then
    let r := portRead (portNumber a) s.video
    (r.1, s.setVideo r.2)
  else if a = 0x4014 then (s.ppu.ioLatch, s)
  else if a < 0x4020 then
    let r := ioRead a s.env
    (r.1, s.setEnv r.2)
  else
    let r := cartCpuRead a s.env
    (r.1, s.setEnv r.2)

/-- One byte of the copy of R315: read through the bus, written at the OAM cursor. -/
def dmaByte (page : Byte) (s : State) (i : Nat) : State :=
  let r := memRead (word16 page (BitVec.ofNat 8 i)) s
  r.2.setVideo { r.2.video with ppu := writeOamData r.1 r.2.ppu }

/-- The copy of R315: `n` bytes of page `page`, from byte `i` on. -/
def dmaCopy (page : Byte) : Nat → Nat → State → State
  | 0, _, s => s
  | n + 1, i, s => dmaCopy page n (i + 1) (dmaByte page s i)

/-- `OamDma(v)` (R315, R316): 256 bytes, then the stall by the parity of `cycles`. -/
def oamDma (page : Byte) (s : State) : State :=
  let s1 := dmaCopy page 256 0 s
  s1.setStall (s1.stall + Config.dmaStall + s1.cycles % 2)

/-- `MemWrite(addr, 1, v)` (R53). -/
def memWrite (a : Addr) (b : Byte) (s : State) : State :=
  if a < 0x2000 then s.setRam (s.ram.write (ramIndex a) b)
  else if a < 0x4000 then s.setVideo (portWrite (portNumber a) b s.video)
  else if a = 0x4014 then oamDma b s
  else if a < 0x4020 then s.setEnv (ioWrite a b s.env)
  else s.setEnv (cartCpuWrite a b s.env)

/-- `Read16(addr)` (R56): the byte at `addr` first, then the byte at `addr + 1`. -/
def read16 (a : Addr) (s : State) : Addr × State :=
  let l := memRead a s
  let h := memRead (a + 1) l.2
  (word16 h.1 l.1, h.2)

/-- `Read16ZP(zp)` (R57): the second byte wraps inside zero page. Zero page is RAM, whose reads change nothing (R68),
so no state is returned (log entry 16). -/
def read16ZP (zp : Byte) (s : State) : Addr :=
  word16 (memRead (zext16 (zp + 1)) s).1 (memRead (zext16 zp) s).1

/-- `Read16Wrap(ptr)` (R58): the second byte comes from the page of the first. -/
def read16Wrap (ptr : Addr) (s : State) : Addr × State :=
  let l := memRead ptr s
  let h := memRead (word16 (hiByte ptr) (loByte ptr + 1)) l.2
  (word16 h.1 l.1, h.2)

/-- The stack's address for a stack pointer (R13). -/
def stackAddress (sp : Byte) : Addr := word16 Config.stackPage sp

/-- `Push(v)` (R17). -/
def push (b : Byte) (s : State) : State :=
  let s1 := memWrite (stackAddress s.sp) b s
  s1.setSP (s1.sp - 1)

/-- `Pull()` (R18). -/
def pull (s : State) : Byte × State :=
  let s1 := s.setSP (s.sp + 1)
  memRead (stackAddress s1.sp) s1

/-- Push a word, high byte first (R181, R335). -/
def pushWord (w : Addr) (s : State) : State := push (loByte w) (push (hiByte w) s)

/-- Pull a word, low byte first (R182, R183). -/
def pullWord (s : State) : Addr × State :=
  let l := pull s
  let h := pull l.2
  (word16 h.1 l.1, h.2)

/-- The interrupt-disable flag `P.I`, bit 2 (R14). -/
def State.flagI (s : State) : Bool := s.p.getLsbD 2

/-- What raises an interrupt entry (R330). -/
inductive EntryKind where
  | nmi
  | irq
  | brk
  deriving DecidableEq, Repr

/-- The vector of an entry (R77, R335). -/
def EntryKind.vector : EntryKind → Addr
  | .nmi => Config.vecNmi
  | .irq => Config.vecIrq
  | .brk => Config.vecIrq

/-- The return address of an entry (R335): BRK skips its padding byte. `pc` is `PCnext` for BRK. -/
def EntryKind.returnAddress (k : EntryKind) (pc : Addr) : Addr :=
  match k with
  | .nmi => pc
  | .irq => pc
  | .brk => pc + 1

/-- The status byte an entry pushes (R15, R335). -/
def EntryKind.pushedStatus (k : EntryKind) (p : Byte) : Byte :=
  match k with
  | .nmi => (p &&& 0xEF) ||| 0x20
  | .irq => (p &&& 0xEF) ||| 0x20
  | .brk => p ||| 0x30

/-- The cycles an entry adds itself (R335): BRK's are its base cost. -/
def EntryKind.ownCycles : EntryKind → Nat
  | .nmi => Config.intCycles
  | .irq => Config.intCycles
  | .brk => 0

/-- `InterruptEntry(kind)` (R335): `PC` and the status pushed, `I` set, `PC` from the vector. -/
def interruptEntry (k : EntryKind) (s : State) : State :=
  let s1 := push (k.pushedStatus s.p) (pushWord (k.returnAddress s.pc) s)
  let r := read16 k.vector (s1.setP (putBit 2 true s1.p))
  (r.2.setPC r.1).addCycles k.ownCycles

/-- The status register after a byte is pulled into it (R15): bit 4 forced 0, bit 5 forced 1. -/
def pulledStatus (b : Byte) : Byte := (b &&& 0xEF) ||| 0x20

/-- The return from an interrupt (R183, R338): status, then `PC`, from the stack. -/
def returnFromInterrupt (s : State) : State :=
  let q := pull s
  let r := pullWord (q.2.setP (pulledStatus q.1))
  r.2.setPC r.1

/-- The PPU half of `Reset()` (R361). -/
def resetPpu (p : Ppu) : Ppu :=
  { writeMask 0 (writeControl 0 { p with cycle := 340, scanline := 240, frame := 0 }) with oamAddr := 0 }

/-- `Reset()` (R361): nothing is pushed; every field not named is kept. -/
def hostReset (s : State) : State :=
  let r := read16 Config.vecReset s
  { r.2 with
    pc := r.1
    sp := Config.resetSp
    p := Config.resetP
    cycles := Config.resetCycles
    stall := 0
    nmiPending := false
    ppu := resetPpu r.2.ppu }

/-- Every field of R10 to R36 at 0 (R360), in an environment. -/
def State.zero (e : Env) : State :=
  { a := 0, x := 0, y := 0, pc := 0, sp := 0, p := 0, cycles := 0, stall := 0, nmiPending := false, ram := [],
    ppu := { Ppu.reset with cycle := 0, scanline := 0 }, env := e }

/-- `PowerOn()` (R360) in an environment. -/
def powerOn (e : Env) : State := hostReset (State.zero e)

end Sys2Proof.Machine
end

