-- ==== Sys2Proof/Machine/Flags.lean ====
section
/-! DEFINITION. The status flags (spec 10_state.md R14, R16) and every flag computation and ALU function of files 41
and 42. A function of a result takes the status byte and answers the new one. -/

namespace Sys2Proof.Machine

/-- `P.C`, bit 0. -/
def flagC (p : Byte) : Bool := p.getLsbD 0

/-- `P.Z`, bit 1. -/
def flagZ (p : Byte) : Bool := p.getLsbD 1

/-- `P.I`, bit 2. -/
def flagI (p : Byte) : Bool := p.getLsbD 2

/-- `P.D`, bit 3. -/
def flagD (p : Byte) : Bool := p.getLsbD 3

/-- `P.V`, bit 6. -/
def flagV (p : Byte) : Bool := p.getLsbD 6

/-- `P.N`, bit 7. -/
def flagN (p : Byte) : Bool := p.getLsbD 7

/-- `P.C <- b`. -/
def putC (b : Bool) (p : Byte) : Byte := putBit 0 b p

/-- `P.Z <- b`. -/
def putZ (b : Bool) (p : Byte) : Byte := putBit 1 b p

/-- `P.I <- b`. -/
def putI (b : Bool) (p : Byte) : Byte := putBit 2 b p

/-- `P.D <- b`. -/
def putD (b : Bool) (p : Byte) : Byte := putBit 3 b p

/-- `P.V <- b`. -/
def putV (b : Bool) (p : Byte) : Byte := putBit 6 b p

/-- `P.N <- b`. -/
def putN (b : Bool) (p : Byte) : Byte := putBit 7 b p

/-- `SetZN(v)` (R7). -/
def setZN (v p : Byte) : Byte := putN (v.getLsbD 7) (putZ (v == 0) p)

/-- `SetZN(v)` on the state. -/
def State.setZN (v : Byte) (s : State) : State := s.setP (Machine.setZN v s.p)

/-- ADC (R142): the result and the status. -/
def addWithCarry (a m p : Byte) : Byte × Byte :=
  let sum := a.toNat + m.toNat + bitNat (flagC p)
  let r := BitVec.ofNat 8 sum
  let overflow := ((a ^^^ r) &&& (m ^^^ r) &&& 0x80) != 0
  (r, setZN r (putV overflow (putC (decide (255 < sum)) p)))

/-- SBC (R143): ADC of the complement. -/
def subtractWithBorrow (a m p : Byte) : Byte × Byte := addWithCarry a (m ^^^ 0xFF) p

/-- CMP, CPX, CPY (R147 to R149): the status after comparing `r` with `m`. -/
def compareFlags (r m p : Byte) : Byte :=
  putN ((r - m).getLsbD 7) (putZ (r == m) (putC (decide (m.toNat ≤ r.toNat)) p))

/-- BIT (R150): the status after testing `m` against `a`. -/
def bitTestFlags (a m p : Byte) : Byte := putN (m.getLsbD 7) (putV (m.getLsbD 6) (putZ ((a &&& m) == 0) p))

/-- ASL (R161): the new byte and the status. -/
def shiftLeft (old p : Byte) : Byte × Byte :=
  let new := old <<< 1
  (new, setZN new (putC (old.getLsbD 7) p))

/-- LSR (R162). -/
def shiftRight (old p : Byte) : Byte × Byte :=
  let new := old >>> 1
  (new, setZN new (putC (old.getLsbD 0) p))

/-- ROL (R163). -/
def rotateLeft (old p : Byte) : Byte × Byte :=
  let new := putBit 0 (flagC p) (old <<< 1)
  (new, setZN new (putC (old.getLsbD 7) p))

/-- ROR (R164). -/
def rotateRight (old p : Byte) : Byte × Byte :=
  let new := putBit 7 (flagC p) (old >>> 1)
  (new, setZN new (putC (old.getLsbD 0) p))

/-- INC (R165). -/
def increment (old p : Byte) : Byte × Byte := (old + 1, setZN (old + 1) p)

/-- DEC (R166). -/
def decrement (old p : Byte) : Byte × Byte := (old - 1, setZN (old - 1) p)

end Sys2Proof.Machine
end

