-- ==== Sys2Proof/Machine/Operands.lean ====
section
/-! DEFINITION. The addressing modes (spec 30_encoding.md R94 to R107), the cycle costs (R108, R109) and the shapes the
instructions share: `PC` and `cycles` advanced (R93), then a read, a write, a read-modify-write or a branch. -/

namespace Sys2Proof.Machine

/-- The base of an indexed mode whose page crossing counts (R102, R103, R105), and its index. -/
def indexedBase (m : MemOperand) (s : State) : Option (Addr × Byte) :=
  match m with
  | .absX w => some (w, s.x)
  | .absY w => some (w, s.y)
  | .indY b => some (read16ZP b s, s.y)
  | .zp _ => none
  | .zpX _ => none
  | .zpY _ => none
  | .abs _ => none
  | .indX _ => none

/-- `EA` of `Resolve` (R94, R98 to R105). -/
def effectiveAddress (m : MemOperand) (s : State) : Addr :=
  match m with
  | .zp b => zext16 b
  | .zpX b => zext16 (b + s.x)
  | .zpY b => zext16 (b + s.y)
  | .abs w => w
  | .absX w => w + zext16 s.x
  | .absY w => w + zext16 s.y
  | .indX b => read16ZP (b + s.x) s
  | .indY b => read16ZP b s + zext16 s.y

/-- `crossed` of `Resolve` (R102, R103, R105). -/
def pageCrossed (m : MemOperand) (s : State) : Bool :=
  match indexedBase m s with
  | some (base, index) => hiByte base != hiByte (base + zext16 index)
  | none => false

/-- Base cost of the read class (R108). -/
def readCycles : MemOperand → Nat
  | .zp _ => 3
  | .zpX _ => 4
  | .zpY _ => 4
  | .abs _ => 4
  | .absX _ => 4
  | .absY _ => 4
  | .indX _ => 6
  | .indY _ => 5

/-- Base cost of the write class (R108). -/
def writeCycles : MemOperand → Nat
  | .zp _ => 3
  | .zpX _ => 4
  | .zpY _ => 4
  | .abs _ => 4
  | .absX _ => 5
  | .absY _ => 5
  | .indX _ => 6
  | .indY _ => 6

/-- Base cost of the read-modify-write class in memory (R108); 0 where the table has no such form (log entry 11). -/
def rmwCycles : MemOperand → Nat
  | .zp _ => 5
  | .zpX _ => 6
  | .zpY _ => 0
  | .abs _ => 6
  | .absX _ => 7
  | .absY _ => 0
  | .indX _ => 0
  | .indY _ => 0

/-- Cost of a memory read with its page-cross penalty (R108, R109). -/
def readCost (m : MemOperand) (s : State) : Nat := readCycles m + bitNat (pageCrossed m s)

/-- `PC` past the instruction and `cycles` by its cost, before the operation (R93). -/
def State.start (len cost : Nat) (s : State) : State :=
  { s with pc := s.pc + BitVec.ofNat 16 len, cycles := s.cycles + cost }

/-- Start an instruction that reads its operand, and read `M` (R93, R97). -/
def readOperand (m : ReadOperand) (s : State) : Byte × State :=
  match m with
  | .imm b => (b, s.start 2 2)
  | .mem m => memRead (effectiveAddress m s) (s.start m.length (readCost m s))

/-- A load (R120 to R122): the register's update is `put`. -/
def loadWith (put : Byte → State → State) (m : ReadOperand) (s : State) : Result :=
  let r := readOperand m s
  .next ((put r.1 r.2).setZN r.1)

/-- A store (R123 to R125): `MemWrite(EA, 1, v)`. -/
def storeByte (v : Byte) (m : MemOperand) (s : State) : Result :=
  .next (memWrite (effectiveAddress m s) v (s.start m.length (writeCycles m)))

/-- An operation on `A`, `M` and the status that writes `A` and the status (R142 to R146). -/
def accumulate (f : Byte → Byte → Byte → Byte × Byte) (m : ReadOperand) (s : State) : Result :=
  let r := readOperand m s
  let q := f r.2.a r.1 r.2.p
  .next ((r.2.setA q.1).setP q.2)

/-- A bitwise operation with its flags (R144 to R146). -/
def logical (f : Byte → Byte → Byte) (a m p : Byte) : Byte × Byte := (f a m, setZN (f a m) p)

/-- A comparison of register value `reg` with `M` (R147 to R149). -/
def compareWith (reg : State → Byte) (m : ReadOperand) (s : State) : Result :=
  let r := readOperand m s
  .next (r.2.setP (compareFlags (reg r.2) r.1 r.2.p))

/-- The read-modify-write template in memory (R160): one read, one write. -/
def modifyMemory (f : Byte → Byte → Byte × Byte) (m : MemOperand) (s : State) : Result :=
  let ea := effectiveAddress m s
  let r := memRead ea (s.start m.length (rmwCycles m))
  let q := f r.1 r.2.p
  .next ((memWrite ea q.1 r.2).setP q.2)

/-- A shift or rotate, on the accumulator or in memory (R96, R160). -/
def modify (f : Byte → Byte → Byte × Byte) (m : ShiftOperand) (s : State) : Result :=
  match m with
  | .acc =>
    let q := f s.a s.p
    .next (((s.start 1 2).setA q.1).setP q.2)
  | .mem m => modifyMemory f m s

/-- A register written with a value and its flags, in one byte and two cycles (R126 to R130, R167 to R170). -/
def registerOp (put : Byte → State → State) (v : Byte) (s : State) : Result :=
  .next ((put v (s.start 1 2)).setZN v)

/-- A change of the status alone, in one byte and two cycles (R204 to R210). -/
def statusOp (f : Byte → Byte) (s : State) : Result := .next ((s.start 1 2).setP (f s.p))

/-- The branch template (R185): one cycle more when taken, one more to another page. -/
def branchIf (cond : Bool) (off : Byte) (s : State) : Result :=
  let s1 := s.start 2 2
  let target := s1.pc + sext16 off
  if cond then .next ((s1.setPC target).addCycles (1 + bitNat (hiByte s1.pc != hiByte target))) else .next s1

end Sys2Proof.Machine
end

