-- ==== Sys2Proof/Machine/Arithmetic.lean ====
section
/-! DEFINITION. Arithmetic, logic, compares and the bit test (spec 41_arithmetic_logic.md R140 to R150). -/

namespace Sys2Proof.Machine

/-- ADC (R142). -/
def execAdc (m : ReadOperand) (s : State) : Result := accumulate addWithCarry m s

/-- SBC (R143). -/
def execSbc (m : ReadOperand) (s : State) : Result := accumulate subtractWithBorrow m s

/-- AND (R144). -/
def execAnd (m : ReadOperand) (s : State) : Result := accumulate (logical fun a b => a &&& b) m s

/-- ORA (R145). -/
def execOra (m : ReadOperand) (s : State) : Result := accumulate (logical fun a b => a ||| b) m s

/-- EOR (R146). -/
def execEor (m : ReadOperand) (s : State) : Result := accumulate (logical fun a b => a ^^^ b) m s

/-- CMP (R147). -/
def execCmp (m : ReadOperand) (s : State) : Result := compareWith State.a m s

/-- CPX (R148). -/
def execCpx (m : ReadOperand) (s : State) : Result := compareWith State.x m s

/-- CPY (R149). -/
def execCpy (m : ReadOperand) (s : State) : Result := compareWith State.y m s

/-- BIT (R150). -/
def execBit (m : MemOperand) (s : State) : Result :=
  let r := readOperand (.mem m) s
  .next (r.2.setP (bitTestFlags r.2.a r.1 r.2.p))

end Sys2Proof.Machine
end

