-- ==== Sys2Proof/Machine/Control.lean ====
section
/-! DEFINITION. Control transfer (spec 43_control_flow.md R180 to R193). -/

namespace Sys2Proof.Machine

/-- JMP (R180): for the indirect form the pointer is read before `PC` and `cycles` advance (R93). -/
def execJmp (t : JumpOperand) (s : State) : Result :=
  match t with
  | .abs w => .next ((s.start 3 3).setPC w)
  | .ind w =>
    let r := read16Wrap w s
    .next ((r.2.start 3 5).setPC r.1)

/-- JSR (R181): the address of the instruction's third byte is pushed. -/
def execJsr (w : Addr) (s : State) : Result :=
  let s1 := s.start 3 6
  .next ((pushWord (s1.pc - 1) s1).setPC w)

/-- RTS (R182). -/
def execRts (s : State) : Result :=
  let r := pullWord (s.start 1 6)
  .next (r.2.setPC (r.1 + 1))

/-- RTI (R183). -/
def execRti (s : State) : Result := .next (returnFromInterrupt (s.start 1 6))

/-- BRK (R184): the software interrupt, taken by its own entry. -/
def execBrk (s : State) : Result := .next (interruptEntry .brk (s.start 1 7))

/-- BCC (R186). -/
def execBcc (off : Byte) (s : State) : Result := branchIf (!flagC s.p) off s

/-- BCS (R187). -/
def execBcs (off : Byte) (s : State) : Result := branchIf (flagC s.p) off s

/-- BEQ (R188). -/
def execBeq (off : Byte) (s : State) : Result := branchIf (flagZ s.p) off s

/-- BNE (R189). -/
def execBne (off : Byte) (s : State) : Result := branchIf (!flagZ s.p) off s

/-- BMI (R190). -/
def execBmi (off : Byte) (s : State) : Result := branchIf (flagN s.p) off s

/-- BPL (R191). -/
def execBpl (off : Byte) (s : State) : Result := branchIf (!flagN s.p) off s

/-- BVC (R192). -/
def execBvc (off : Byte) (s : State) : Result := branchIf (!flagV s.p) off s

/-- BVS (R193). -/
def execBvs (off : Byte) (s : State) : Result := branchIf (flagV s.p) off s

end Sys2Proof.Machine
end

