-- ==== Sys2Proof/Machine/LoadStore.lean ====
section
/-! DEFINITION. Loads, stores and register transfers (spec 40_load_store_transfer.md R120 to R131). -/

namespace Sys2Proof.Machine

/-- LDA (R120). -/
def execLda (m : ReadOperand) (s : State) : Result := loadWith State.setA m s

/-- LDX (R121). -/
def execLdx (m : ReadOperand) (s : State) : Result := loadWith State.setX m s

/-- LDY (R122). -/
def execLdy (m : ReadOperand) (s : State) : Result := loadWith State.setY m s

/-- STA (R123). -/
def execSta (m : MemOperand) (s : State) : Result := storeByte s.a m s

/-- STX (R124). -/
def execStx (m : MemOperand) (s : State) : Result := storeByte s.x m s

/-- STY (R125). -/
def execSty (m : MemOperand) (s : State) : Result := storeByte s.y m s

/-- TAX (R126). -/
def execTax (s : State) : Result := registerOp State.setX s.a s

/-- TAY (R127). -/
def execTay (s : State) : Result := registerOp State.setY s.a s

/-- TXA (R128). -/
def execTxa (s : State) : Result := registerOp State.setA s.x s

/-- TYA (R129). -/
def execTya (s : State) : Result := registerOp State.setA s.y s

/-- TSX (R130). -/
def execTsx (s : State) : Result := registerOp State.setX s.sp s

/-- TXS (R131): the one transfer that sets no flag. -/
def execTxs (s : State) : Result := .next ((s.start 1 2).setSP s.x)

end Sys2Proof.Machine
end

