-- ==== Sys2Proof/Machine/ShiftInc.lean ====
section
/-! DEFINITION. Shifts, rotates, increments and decrements (spec 42_shift_rotate_incdec.md R160 to R170). -/

namespace Sys2Proof.Machine

/-- ASL (R161). -/
def execAsl (m : ShiftOperand) (s : State) : Result := modify shiftLeft m s

/-- LSR (R162). -/
def execLsr (m : ShiftOperand) (s : State) : Result := modify shiftRight m s

/-- ROL (R163). -/
def execRol (m : ShiftOperand) (s : State) : Result := modify rotateLeft m s

/-- ROR (R164). -/
def execRor (m : ShiftOperand) (s : State) : Result := modify rotateRight m s

/-- INC (R165). -/
def execInc (m : MemOperand) (s : State) : Result := modifyMemory increment m s

/-- DEC (R166). -/
def execDec (m : MemOperand) (s : State) : Result := modifyMemory decrement m s

/-- INX (R167). -/
def execInx (s : State) : Result := registerOp State.setX (s.x + 1) s

/-- INY (R168). -/
def execIny (s : State) : Result := registerOp State.setY (s.y + 1) s

/-- DEX (R169). -/
def execDex (s : State) : Result := registerOp State.setX (s.x - 1) s

/-- DEY (R170). -/
def execDey (s : State) : Result := registerOp State.setY (s.y - 1) s

end Sys2Proof.Machine
end

