-- ==== Sys2Proof/Machine/StackFlags.lean ====
section
/-! DEFINITION. Stack, flag, no-operation and illegal-opcode instructions (spec 44_stack_flags_nop_illegal.md R200 to
R215). -/

namespace Sys2Proof.Machine

/-- PHA (R200). -/
def execPha (s : State) : Result := .next (push s.a (s.start 1 3))

/-- PHP (R201): bits 4 and 5 set in the pushed copy. -/
def execPhp (s : State) : Result := .next (push (s.p ||| 0x30) (s.start 1 3))

/-- PLA (R202). -/
def execPla (s : State) : Result :=
  let r := pull (s.start 1 4)
  .next ((r.2.setA r.1).setZN r.1)

/-- PLP (R203). -/
def execPlp (s : State) : Result :=
  let r := pull (s.start 1 4)
  .next (r.2.setP (pulledStatus r.1))

/-- CLC (R204). -/
def execClc (s : State) : Result := statusOp (putC false) s

/-- SEC (R205). -/
def execSec (s : State) : Result := statusOp (putC true) s

/-- CLI (R206). -/
def execCli (s : State) : Result := statusOp (putI false) s

/-- SEI (R207). -/
def execSei (s : State) : Result := statusOp (putI true) s

/-- CLV (R208). -/
def execClv (s : State) : Result := statusOp (putV false) s

/-- CLD (R209). -/
def execCld (s : State) : Result := statusOp (putD false) s

/-- SED (R210). -/
def execSed (s : State) : Result := statusOp (putD true) s

/-- NOP (R211). -/
def execNop (s : State) : Result := .next (s.start 1 2)

/-- ILLEGAL (R215): a no-op of one fixed length and cost, whichever of the 105 bytes it is (log entry 8). -/
def execIllegal (_opcode : Byte) (s : State) : Result := .next (s.start Config.illegalLen Config.illegalCycles)

end Sys2Proof.Machine
end

