-- ==== Sys2Proof/Machine/Scheduler.lean ====
section
/-! DEFINITION. The CPU step and the global step (spec 30_encoding.md R92, R93; 47_bus_scheduler_dma.md R305 to R311). -/

namespace Sys2Proof.Machine

/-- The fetch of R93: the opcode byte at `PC`, then as many operand bytes as its length needs, `b1` first (R92, R86),
each an ordinary bus read; the instruction they are, and the state after the reads. `PC` still holds the opcode's
address: the instruction's meaning advances it. -/
def fetch (s : State) : Instr × State :=
  let r := memRead s.pc s
  match opcodeLength r.1 with
  | 1 => (decodeOp r.1 0 0, r.2)
  | 2 =>
    let r1 := memRead (s.pc + 1) r.2
    (decodeOp r.1 r1.1 0, r1.2)
  | _ =>
    let r1 := memRead (s.pc + 1) r.2
    let r2 := memRead (s.pc + 2) r1.2
    (decodeOp r.1 r1.1 r2.1, r2.2)

/-- `ExecInstruction()` (R93, R307). -/
def execInstruction (s : State) : Result :=
  let r := fetch s
  exec r.1 r.2

/-- The stall arm (R306). -/
def stallCycle (s : State) : State := (s.setStall (s.stall - 1)).addCycles 1

/-- `CpuStep()` (R305): a stall cycle, an NMI entry, an IRQ entry or one instruction, tested in this order. -/
def cpuStep (s : State) : Result :=
  if 0 < s.stall then .next (stallCycle s)
  else if s.nmiPending then .next (interruptEntry .nmi (s.setNmiPending false))
  else
    let q := irqSample s.env
    let s1 := s.setEnv q.2
    if !s.flagI && q.1 then .next (interruptEntry .irq s1) else execInstruction s1

/-- `n` dots of the PPU. -/
def State.runDots (n : Nat) (s : State) : State := s.setVideo (ppuSteps n s.video)

/-- What follows a CPU step that began with `cycles` at `c0` (R310, R311): three dots for each cycle it took, then
`NmiDelayTick()`. -/
def finishStep (c0 : Nat) (s : State) : State :=
  nmiDelayTick (s.runDots (Config.ppuClockRatio * (s.cycles - c0)))

/-- `GlobalStep()` (R310). -/
def globalStep (s : State) : Result :=
  match cpuStep s with
  | .next t => .next (finishStep s.cycles t)
  | .fault r => .fault r
  | .refused r => .refused r

/-- The host's call of `Reset()` between two global steps (R318, R334), when it has asked for one (log entry 5). -/
def serveReset (s : State) : State := hostReset (s.setEnv { s.env with resetRequested := false })

/-- One transition of the machine (R8): a requested `Reset`, else a `GlobalStep`. -/
def transition (s : State) : Result := if s.env.resetRequested then .next (serveReset s) else globalStep s

end Sys2Proof.Machine
end

