-- ==== Sys2Proof/Machine/Step.lean ====
section
/-! DEFINITION. The machine's step, and how an instruction word is laid where the next step fetches it. -/

namespace Sys2Proof.Machine

/-- One step: a transition of R8. -/
def step (s : State) : Host.Outcome State Fault Refusal := transition s

/-- The state with the instruction of bits `w` (its bits from `nbits` up are 0) as the one the next step runs (log
entry 2): a cartridge that answers its three bytes at `Config.loadAddress`, `PC` there, and no stall, pending NMI,
unmasked IRQ or requested reset in the way. -/
def State.withFetchWord (s : State) (nbits w : Nat) : State :=
  let v := w % 2 ^ nbits
  let a := Config.loadAddress.toNat
  let prg :=
    ((s.env.prg.put a (BitVec.ofNat 8 v)).put (a + 1) (BitVec.ofNat 8 (v / 256))).put (a + 2) (BitVec.ofNat 8 (v / 65536))
  { s with
    pc := Config.loadAddress
    stall := 0
    nmiPending := false
    env :=
      { s.env with
        prg := prg
        irqLine := if s.flagI then s.env.irqLine else some false
        resetRequested := false } }

end Sys2Proof.Machine
end

