-- ==== Sys2Proof/Safety.lean ====
section
/-! DEFINITION. The terms claims are stated in: the invariant of every state the machine reaches, and completion. -/

namespace Sys2Proof.Machine

/-- The stored status byte has `B = 0` and `U = 1` (spec 10_state.md R15). -/
def State.statusOk (s : State) : Prop := s.p.getLsbD 4 = false ∧ s.p.getLsbD 5 = true

/-- The bounds of the PPU's counters: scanline and dot (R24), sprite slots (R34), NMI countdown (R32). -/
def Ppu.boundsOk (p : Ppu) : Prop :=
  p.scanline ≤ 261 ∧ p.cycle ≤ 340 ∧ p.spriteCount ≤ 8 ∧ p.nmiDelay ≤ Config.nmiDelay

/-- The attribute latch holds a palette number times 4 (R33). -/
def Ppu.attributeOk (p : Ppu) : Prop := p.attributeByte &&& 0xF3 = 0

/-- The edge detector's record is the level as it stands (R32, R343). -/
def Ppu.edgeOk (p : Ppu) : Prop := p.nmiPrev = p.nmiLevel

/-- The palette's four folded entries are never written (R35). -/
def Ppu.paletteOk (p : Ppu) : Prop :=
  Cells.find? p.palette 16 = none ∧ Cells.find? p.palette 20 = none ∧
    Cells.find? p.palette 24 = none ∧ Cells.find? p.palette 28 = none

/-- Every memory of the PPU is in canonical form and inside its size (R35, R36). -/
def Ppu.memoriesOk (p : Ppu) : Prop :=
  Memory.wf 32 p.palette ∧ Memory.wf 2048 p.nametable ∧ Memory.wf 256 p.oam ∧ Grid.wf p.front ∧ Grid.wf p.back

/-- Every memory of the state, the environment's images among them, is in canonical form and inside its size. -/
def State.memoriesOk (s : State) : Prop :=
  Memory.wf 2048 s.ram ∧ s.ppu.memoriesOk ∧
    Image.wf 65536 s.env.prg ∧ Image.wf 8192 s.env.chr ∧ Image.wf 65536 s.env.io

/-- All of it: what every step keeps. -/
def State.Inv (s : State) : Prop :=
  s.statusOk ∧ s.ppu.boundsOk ∧ s.ppu.attributeOk ∧ s.ppu.edgeOk ∧ s.ppu.paletteOk ∧ s.memoriesOk

/-- The status `q` has the six flags given, and bits 4 and 5 of `p` (R14). -/
def statusIs (p q : Byte) (n v d i z c : Bool) : Prop :=
  flagN q = n ∧ flagV q = v ∧ flagD q = d ∧ flagI q = i ∧ flagZ q = z ∧ flagC q = c ∧
    q.getLsbD 4 = p.getLsbD 4 ∧ q.getLsbD 5 = p.getLsbD 5

/-- `q` is `p` with Z and N of the byte `v`, every other bit as it was (R16). -/
def onlyZN (p q v : Byte) : Prop :=
  statusIs p q (v.getLsbD 7) (flagV p) (flagD p) (flagI p) (v == 0) (flagC p)

/-- `q` is `p` with Z and N of the byte `v` and the carry `c`, every other bit as it was (R16). -/
def onlyZNC (p q v : Byte) (c : Bool) : Prop :=
  statusIs p q (v.getLsbD 7) (flagV p) (flagD p) (flagI p) (v == 0) c

/-- Every byte of `new` reads as in `old`, but for the bytes stored at the addresses of `w`. -/
def ramWith (old new : Memory) (w : List (Addr × Byte)) : Prop :=
  ∀ c : Addr, new.read (ramIndex c) =
    match w.find? (fun e => ramIndex e.1 == ramIndex c) with
    | some e => e.2
    | none => old.read (ramIndex c)

/-- Length and cycles of an instruction of the read class with this operand (R94, R108, R109). -/
def readAdvance (o : ReadOperand) (s : State) : Addr × Nat :=
  match o with
  | .imm _ => (2, 2)
  | .mem (.zp _) => (2, 3)
  | .mem (.zpX _) => (2, 4)
  | .mem (.zpY _) => (2, 4)
  | .mem (.abs _) => (3, 4)
  | .mem (.absX w) => (3, if pageCrossed (.absX w) s then 5 else 4)
  | .mem (.absY w) => (3, if pageCrossed (.absY w) s then 5 else 4)
  | .mem (.indX _) => (2, 6)
  | .mem (.indY b) => (2, if pageCrossed (.indY b) s then 6 else 5)

/-- Length and cycles of an instruction of the write class (R94, R108). -/
def writeAdvance : MemOperand → Addr × Nat
  | .zp _ => (2, 3)
  | .zpX _ => (2, 4)
  | .zpY _ => (2, 4)
  | .abs _ => (3, 4)
  | .absX _ => (3, 5)
  | .absY _ => (3, 5)
  | .indX _ => (2, 6)
  | .indY _ => (2, 6)

/-- Length and cycles of a read-modify-write instruction in memory (R94, R108), for the four modes it has. -/
def modifyAdvance : MemOperand → Addr × Nat
  | .zp _ => (2, 5)
  | .zpX _ => (2, 6)
  | .abs _ => (3, 6)
  | .absX _ => (3, 7)
  | _ => (0, 0)

/-- `PC` and `cycles` advanced by a length and a cost (R93). -/
def State.past (s : State) (d : Addr × Nat) : State := { s with pc := s.pc + d.1, cycles := s.cycles + d.2 }

/-- The operand `M` of a read-class instruction that begins in state `s`, and the state after its read (R94, R97). -/
def operandOf (o : ReadOperand) (s : State) : Byte × State :=
  match o with
  | .imm b => (b, s.past (readAdvance o s))
  | .mem m => memRead (effectiveAddress m s) (s.past (readAdvance o s))

/-- The operand forms of LDA, ADC, SBC, AND, ORA, EOR and CMP, in the order of their rules. -/
def fullForms (b : Byte) (w : Addr) : List ReadOperand :=
  [.imm b, .mem (.zp b), .mem (.zpX b), .mem (.abs w), .mem (.absX w), .mem (.absY w), .mem (.indX b), .mem (.indY b)]

/-- The operand forms of STA, in the order of R123. -/
def storeForms (b : Byte) (w : Addr) : List MemOperand :=
  [.zp b, .zpX b, .abs w, .absX w, .absY w, .indX b, .indY b]

/-- The memory forms of the read-modify-write instructions, in the order of their rules. -/
def modifyForms (b : Byte) (w : Addr) : List MemOperand := [.zp b, .zpX b, .abs w, .absX w]

/-- The opcode bytes `ops` decode to the instructions `is` of the first operand byte and of the operand word. -/
def decodesTo (ops : List Byte) (is : Byte → Addr → List Instr) : Prop :=
  ∀ b1 b2 : Byte, ops.map (fun op => decodeOp op b1 b2) = is b1 (word16 b2 b1)

/-- A load of a register: `put` writes it (R120 to R122). -/
def loads (i : ReadOperand → Instr) (put : State → Byte → State) : Prop :=
  ∀ (o : ReadOperand) (s : State),
    let r := operandOf o s
    ∃ q, exec (i o) s = .next { put r.2 r.1 with p := q } ∧ onlyZN s.p q r.1

/-- A store of the byte `v`: one write at the effective address, no flag and no register changed (R123 to R125). -/
def stores (i : MemOperand → Instr) (v : State → Byte) : Prop :=
  ∀ (m : MemOperand) (s : State), exec (i m) s = .next (memWrite (effectiveAddress m s) (v s) (s.past (writeAdvance m)))

/-- An implied instruction of one byte and two cycles that writes the byte `v` with `put`, and its Z and N. -/
def movesByte (i : Instr) (v : State → Byte) (put : State → Byte → State) : Prop :=
  ∀ s : State, ∃ q, exec i s = .next { put (s.past (1, 2)) (v s) with p := q } ∧ onlyZN s.p q (v s)

/-- A bitwise operation of `A` with the operand (R144 to R146). -/
def bitwise (i : ReadOperand → Instr) (f : Byte → Byte → Byte) : Prop :=
  ∀ (o : ReadOperand) (s : State),
    let r := operandOf o s
    ∃ q, exec (i o) s = .next { r.2 with a := f s.a r.1, p := q } ∧ onlyZN s.p q (f s.a r.1)

/-- A comparison of the register `reg` with the operand (R147 to R149). -/
def compares (i : ReadOperand → Instr) (reg : State → Byte) : Prop :=
  ∀ (o : ReadOperand) (s : State),
    let r := operandOf o s
    ∃ q, exec (i o) s = .next { r.2 with p := q } ∧
      statusIs s.p q ((reg s - r.1).getLsbD 7) (flagV s.p) (flagD s.p) (flagI s.p) (reg s == r.1)
        (decide (r.1.toNat ≤ (reg s).toNat))

/-- A read-modify-write instruction on memory does one read of its address, writes `new` of the byte and the old carry
there, and sets Z, N and the carry `carry` (R160, R16). -/
def modifiesMemory (i : MemOperand → Instr) (new : Byte → Bool → Byte) (carry : Byte → Bool → Bool) : Prop :=
  ∀ (m : MemOperand) (s : State), m.isX = true →
    let ea := effectiveAddress m s
    let r := memRead ea (s.past (modifyAdvance m))
    let b := new r.1 (flagC s.p)
    ∃ q, exec (i m) s = .next { memWrite ea b r.2 with p := q } ∧ onlyZNC s.p q b (carry r.1 (flagC s.p))

/-- A shift or rotate of the accumulator in one byte and two cycles (R96, R160, R16). -/
def modifiesAccumulator (i : Instr) (new : Byte → Bool → Byte) (carry : Byte → Bool → Bool) : Prop :=
  ∀ s : State,
    let b := new s.a (flagC s.p)
    ∃ q, exec i s = .next { s with pc := s.pc + 1, cycles := s.cycles + 2, a := b, p := q } ∧
      onlyZNC s.p q b (carry s.a (flagC s.p))

/-- A branch on `cond` of the status: two cycles not taken; three taken, four to another page than the next
instruction's (R185). -/
def branchesOn (i : Byte → Instr) (cond : Byte → Bool) : Prop :=
  ∀ (off : Byte) (s : State),
    let next := s.pc + 2
    let target := BitVec.ofInt 16 (next.toNat + off.toInt)
    exec (i off) s = .next
      (if cond s.p then
        { s with pc := target, cycles := s.cycles + (if hiByte next = hiByte target then 3 else 4) }
       else { s with pc := next, cycles := s.cycles + 2 })

/-- An implied instruction of one byte and two cycles that changes only the status, to what `f` says of it. -/
def changesStatusOnly (i : Instr) (f : Byte → Byte → Prop) : Prop :=
  ∀ s : State, ∃ q, exec i s = .next { s with pc := s.pc + 1, cycles := s.cycles + 2, p := q } ∧ f s.p q

/-- `n` bytes read from consecutive addresses from `a` on, in order, and the state after the reads. -/
def readBytes : Nat → Addr → State → List Byte × State
  | 0, _, s => ([], s)
  | n + 1, a, s =>
    let r := memRead a s
    let t := readBytes n (a + 1) r.2
    (r.1 :: t.1, t.2)

/-- The operand of an opcode byte that pays the page-cross cycle (R109, R110): column 1 of the matrix is `(zp),Y`,
column 9 and `$BE` are `abs,Y`, the others are `abs,X`. -/
def penaltyOperand (op b1 b2 : Byte) : MemOperand :=
  if op.toNat % 16 = 1 then .indY b1
  else if op.toNat % 16 = 9 ∨ op = 0xBE then .absY (word16 b2 b1)
  else .absX (word16 b2 b1)

/-- The `n` bits of a 15-bit register from bit `lo` up. -/
def field (v : BitVec 15) (lo n : Nat) : BitVec n := v.extractLsb' lo n

/-- `new` is `old` outside bits `hi - 1 : lo`. -/
def sameOutside (old new : BitVec 15) (lo hi : Nat) : Prop :=
  ∀ k, (k < lo ∨ hi ≤ k) → new.getLsbD k = old.getLsbD k

/-- Base cycles by opcode byte, one list for each row of the matrix of 30_encoding.md R110 (R108, R111). -/
def cycleTable : List (List Nat) :=
  [[7, 6, 2, 2, 2, 3, 5, 2, 3, 2, 2, 2, 2, 4, 6, 2],
   [2, 5, 2, 2, 2, 4, 6, 2, 2, 4, 2, 2, 2, 4, 7, 2],
   [6, 6, 2, 2, 3, 3, 5, 2, 4, 2, 2, 2, 4, 4, 6, 2],
   [2, 5, 2, 2, 2, 4, 6, 2, 2, 4, 2, 2, 2, 4, 7, 2],
   [6, 6, 2, 2, 2, 3, 5, 2, 3, 2, 2, 2, 3, 4, 6, 2],
   [2, 5, 2, 2, 2, 4, 6, 2, 2, 4, 2, 2, 2, 4, 7, 2],
   [6, 6, 2, 2, 2, 3, 5, 2, 4, 2, 2, 2, 5, 4, 6, 2],
   [2, 5, 2, 2, 2, 4, 6, 2, 2, 4, 2, 2, 2, 4, 7, 2]] ++
  [[2, 6, 2, 2, 3, 3, 3, 2, 2, 2, 2, 2, 4, 4, 4, 2],
   [2, 6, 2, 2, 4, 4, 4, 2, 2, 5, 2, 2, 2, 5, 2, 2],
   [2, 6, 2, 2, 3, 3, 3, 2, 2, 2, 2, 2, 4, 4, 4, 2],
   [2, 5, 2, 2, 4, 4, 4, 2, 2, 4, 2, 2, 4, 4, 4, 2],
   [2, 6, 2, 2, 3, 3, 5, 2, 2, 2, 2, 2, 4, 4, 6, 2],
   [2, 5, 2, 2, 2, 4, 6, 2, 2, 4, 2, 2, 2, 4, 7, 2],
   [2, 6, 2, 2, 3, 3, 5, 2, 2, 2, 2, 2, 4, 4, 6, 2],
   [2, 5, 2, 2, 2, 4, 6, 2, 2, 4, 2, 2, 2, 4, 7, 2]]

/-- The opcode bytes that pay the page-cross cycle: `pen = 1` in R110 (R109). -/
def penaltyOpcodes : List Nat :=
  [0x11, 0x19, 0x1D, 0x31, 0x39, 0x3D, 0x51, 0x59, 0x5D, 0x71, 0x79, 0x7D, 0xB1] ++
  [0xB9, 0xBC, 0xBD, 0xBE, 0xD1, 0xD9, 0xDD, 0xF1, 0xF9, 0xFD]

end Sys2Proof.Machine
end

