-- ==== Sys2Proof/Certificates/Slice0/Obligations.lean ====
section
/-! DEFINITION. The statements for the provers, in the order of the spec's files. A rule number in a docstring is the
rule the statement formalises. -/

open Sys2Proof Sys2Proof.Machine

/-- R360 with the "after PowerOn" column of R40: power-on in any environment, field by field. Nothing is said of the
model's own counter `framesSent` (log entry 6). -/
def Obligations.PowerOnSetsEveryField : Prop :=
  ∀ e : Env,
    let low := cartCpuRead 0xFFFC e
    let high := cartCpuRead 0xFFFD low.2
    powerOn e =
      { a := 0, x := 0, y := 0, pc := high.1 ++ low.1, sp := 0xFD, p := 0x24, cycles := 7, stall := 0,
        nmiPending := false, ram := [],
        ppu :=
          { cycle := 340, scanline := 240, frame := 0, f := false, v := 0, t := 0, x := 0, w := false,
            control := ⟨0, false, false, false, false, false⟩, nmiOutput := false,
            mask := ⟨false, false, false, false, false, false, false, false⟩,
            spriteOverflow := false, spriteZeroHit := false, nmiOccurred := false, ioLatch := 0, oamAddr := 0,
            bufferedData := 0, nmiPrev := false, nmiDelay := 0, nametableByte := 0, attributeByte := 0,
            lowTileByte := 0, highTileByte := 0, tileData := 0, spriteCount := 0,
            sprites := Vector.replicate 8 ⟨0, 0, false, 0⟩, palette := [], nametable := [], oam := [],
            front := [], back := [], framesSent := (powerOn e).ppu.framesSent },
        env := high.2 }

/-- R361, R337 and the "after Reset" column of R40: what `Reset` writes, and that it keeps every other field. -/
def Obligations.HostResetWritesOnlyItsFields : Prop :=
  ∀ s : State,
    let low := cartCpuRead 0xFFFC s.env
    let high := cartCpuRead 0xFFFD low.2
    hostReset s =
      { s with
        pc := high.1 ++ low.1, sp := 0xFD, p := 0x24, cycles := 7, stall := 0, nmiPending := false
        ppu :=
          { s.ppu with
            cycle := 340, scanline := 240, frame := 0
            control := ⟨0, false, false, false, false, false⟩, nmiOutput := false, nmiPrev := false
            t := s.ppu.t &&& 0x73FF
            mask := ⟨false, false, false, false, false, false, false, false⟩
            oamAddr := 0 }
        env := high.2 }

/-- The model's reset state is power-on (R360, R40) in the environment of which nothing is known (log entry 2), and it
meets the invariant (R15, R24, R32, R33, R35). -/
def Obligations.ResetIsPowerOnAndMeetsTheInvariant : Prop := State.reset = powerOn Env.unknown ∧ State.reset.Inv

/-- R8, R318, R334: a transition is the host's `Reset` when it has been asked for, else a `GlobalStep`. That the request
is a bit of the state, and that `Reset` takes the place of one global step, is the model's choice (log entry 5). -/
def Obligations.StepServesResetOrRunsGlobalStep : Prop :=
  ∀ s : State,
    step s =
      if s.env.resetRequested then .next (hostReset { s with env := { s.env with resetRequested := false } })
      else globalStep s

/-- R15: the stored `P` keeps `B = 0` and `U = 1` over every step. -/
def Obligations.StepKeepsStatusBits : Prop :=
  ∀ s t : State, s.statusOk → step s = .next t → t.statusOk

/-- R24, R32, R33, R34: the counters keep their bounds, the attribute latch its form, the edge record its level. -/
def Obligations.StepKeepsPpuRegisters : Prop :=
  ∀ s t : State, s.ppu.boundsOk → s.ppu.attributeOk → s.ppu.edgeOk → step s = .next t →
    t.ppu.boundsOk ∧ t.ppu.attributeOk ∧ t.ppu.edgeOk

/-- R35, R36, R73 to R75: every memory keeps its canonical form and its size, whatever is stored and drawn, and the four
folded palette entries stay unwritten. The canonical form is the model's (log entry 15). -/
def Obligations.StepKeepsMemories : Prop :=
  ∀ s t : State, s.ppu.boundsOk → s.memoriesOk → s.ppu.paletteOk → step s = .next t →
    t.memoriesOk ∧ t.ppu.paletteOk

/-- R331: no instruction and no step stops, in any state. -/
def Obligations.EveryInstructionAndStepCompletes : Prop :=
  (∀ (i : Instr) (s : State), ∃ t, exec i s = .next t) ∧ ∀ s : State, ∃ t, step s = .next t

/-- R305, R306, R333, R336: the four arms of a CPU step in their order, and that it takes at least one cycle. -/
def Obligations.CpuStepTakesItsArmsInOrder : Prop :=
  (∀ s : State,
    let line := irqSample s.env
    cpuStep s =
      if 0 < s.stall then .next { s with stall := s.stall - 1, cycles := s.cycles + 1 }
      else if s.nmiPending = true then .next (interruptEntry .nmi { s with nmiPending := false })
      else if line.1 = true ∧ flagI s.p = false then .next (interruptEntry .irq { s with env := line.2 })
      else execInstruction { s with env := line.2 }) ∧
  ∀ s t : State, cpuStep s = .next t → s.cycles < t.cycles

/-- R306: a stall of `n` takes `n` global steps, in which no CPU register but `stall` and `cycles` changes, and RAM
does not. -/
def Obligations.StallLastsItsCount : Prop :=
  ∀ (n : Nat) (s : State), s.stall = n → s.env.resetRequested = false →
    ∃ t, Sys2Proof.core.run n s = .next t ∧ t.stall = 0 ∧ t.cycles = s.cycles + n ∧
      t.a = s.a ∧ t.x = s.x ∧ t.y = s.y ∧ t.pc = s.pc ∧ t.sp = s.sp ∧ t.p = s.p ∧ t.ram = s.ram

/-- R310: a global step is one CPU step, three dots for each cycle it took, then the NMI countdown. -/
def Obligations.GlobalStepRunsThreeDotsPerCycle : Prop :=
  ∀ s t : State, cpuStep s = .next t →
    let g := ppuSteps (3 * (t.cycles - s.cycles)) { ppu := t.ppu, env := t.env }
    globalStep s = .next (nmiDelayTick { t with ppu := g.ppu, env := g.env })

/-- R93, R307, R310: where no reset is asked for, no stall runs, no NMI is pending and IRQ is masked or not asserted,
a step reads the instruction's bytes at `PC` in order, and is `exec` of the instruction they decode to, followed by the
dots and the NMI countdown. -/
def Obligations.StepRunsDecodedInstruction : Prop :=
  ∀ (s t : State) (i : Instr),
    s.env.resetRequested = false → s.stall = 0 → s.nmiPending = false →
    (flagI s.p = true ∨ (irqSample s.env).1 = false) →
    let r := readBytes i.length s.pc { s with env := (irqSample s.env).2 }
    decode r.1 = .ok (i, []) → exec i r.2 = .next t →
      step s = .next (nmiDelayTick (t.runDots (3 * (t.cycles - s.cycles))))

/-- R90, R92, R110, R111: the decoder reads back every well-formed instruction from its own encoding, whatever follows,
and every well-formed instruction has an encoding of its length. -/
def Obligations.DecodeReadsBackEveryEncoding : Prop :=
  ∀ i : Instr, i.wellFormed = true →
    ∃ bs, encode i = some bs ∧ bs.length = i.length ∧ ∀ rest, decode (bs ++ rest) = .ok (i, rest)

/-- R90, R110, R111: whatever the decoder answers is a well-formed instruction, whose encoding is the bytes it took. -/
def Obligations.EncodeReadsBackEveryDecoding : Prop :=
  ∀ (bs rest : List Byte) (i : Instr), decode bs = .ok (i, rest) →
    i.wellFormed = true ∧ ∃ e, encode i = some e ∧ bs = e ++ rest

/-- One word of each family, written out from the encoding lines of its rules. -/
def Obligations.SampleWordsDecode : Prop :=
  decode [0xA9, 0x80] = .ok (.lda (.imm 0x80), []) ∧
  decode [0x8D, 0x06, 0x20] = .ok (.sta (.abs 0x2006), []) ∧
  decode [0xB6, 0xFF] = .ok (.ldx (.mem (.zpY 0xFF)), []) ∧
  decode [0x71, 0x10] = .ok (.adc (.mem (.indY 0x10)), []) ∧
  decode [0xFE, 0x34, 0x12] = .ok (.inc (.absX 0x1234), []) ∧
  decode [0x6A] = .ok (.ror .acc, []) ∧
  decode [0x6C, 0xFF, 0x02] = .ok (.jmp (.ind 0x02FF), []) ∧
  decode [0xD0, 0xFB] = .ok (.bne 0xFB, []) ∧
  decode [0x28] = .ok (.plp, []) ∧
  decode [0x02, 0xEA] = .ok (.illegal 0x02, [0xEA])

/-- R111: an opcode byte is illegal exactly when it is one of the 105 listed; it is then one byte long, and only advances
`PC` by one and `cycles` by two. -/
def Obligations.IllegalOpcodesAreThose105 : Prop :=
  illegalOpcodes.length = 105 ∧ illegalOpcodes.Nodup ∧
    ∀ op b1 b2 : Byte,
      (op ∈ illegalOpcodes →
        decodeOp op b1 b2 = .illegal op ∧ opcodeLength op = 1 ∧
          ∀ s : State, exec (decodeOp op b1 b2) s = .next { s with pc := s.pc + 1, cycles := s.cycles + 2 }) ∧
      (op ∉ illegalOpcodes → ∀ o, decodeOp op b1 b2 ≠ .illegal o)

/-- R98 to R105: the effective address and the page crossing of every mode. Zero page is RAM. -/
def Obligations.EffectiveAddresses : Prop :=
  ∀ (b : Byte) (w : Addr) (s : State),
    let byteAt (z : Byte) : Byte := s.ram.read z.toNat
    let pointer (z : Byte) : Addr := byteAt (z + 1) ++ byteAt z
    (effectiveAddress (.zp b) s = BitVec.ofNat 16 b.toNat ∧ pageCrossed (.zp b) s = false) ∧
    (effectiveAddress (.zpX b) s = BitVec.ofNat 16 ((b.toNat + s.x.toNat) % 256) ∧ pageCrossed (.zpX b) s = false) ∧
    (effectiveAddress (.zpY b) s = BitVec.ofNat 16 ((b.toNat + s.y.toNat) % 256) ∧ pageCrossed (.zpY b) s = false) ∧
    (effectiveAddress (.abs w) s = w ∧ pageCrossed (.abs w) s = false) ∧
    (effectiveAddress (.absX w) s = BitVec.ofNat 16 (w.toNat + s.x.toNat) ∧
      pageCrossed (.absX w) s = decide (w.toNat / 256 ≠ (w.toNat + s.x.toNat) % 65536 / 256)) ∧
    (effectiveAddress (.absY w) s = BitVec.ofNat 16 (w.toNat + s.y.toNat) ∧
      pageCrossed (.absY w) s = decide (w.toNat / 256 ≠ (w.toNat + s.y.toNat) % 65536 / 256)) ∧
    (effectiveAddress (.indX b) s = pointer (b + s.x) ∧ pageCrossed (.indX b) s = false) ∧
    (effectiveAddress (.indY b) s = BitVec.ofNat 16 ((pointer b).toNat + s.y.toNat) ∧
      pageCrossed (.indY b) s =
        decide ((pointer b).toNat / 256 ≠ ((pointer b).toNat + s.y.toNat) % 65536 / 256))

/-- R108, R109, R111: the cycles every opcode byte costs, the branches' extra cycles apart. -/
def Obligations.CycleCostOfEveryOpcode : Prop :=
  ∀ (op b1 b2 : Byte) (s : State), op.toNat % 32 ≠ 16 →
    ∃ t, exec (decodeOp op b1 b2) s = .next t ∧
      t.cycles = s.cycles + ((cycleTable.getD (op.toNat / 16) []).getD (op.toNat % 16) 0) +
        (if op.toNat ∈ penaltyOpcodes ∧ pageCrossed (penaltyOperand op b1 b2) s = true then 1 else 0)

/-- R52, R54: the one device a read of the CPU bus reaches. -/
def Obligations.ReadsReachOneDevice : Prop :=
  ∀ (a : Addr) (s : State),
    memRead a s =
      if a.toNat < 0x2000 then (s.ram.read (a.toNat % 0x0800), s)
      else if a.toNat < 0x4000 then
        let r := portRead (a.toNat % 8) { ppu := s.ppu, env := s.env }
        (r.1, { s with ppu := r.2.ppu, env := r.2.env })
      else if a.toNat = 0x4014 then (s.ppu.ioLatch, s)
      else if a.toNat < 0x4020 then ((ioRead a s.env).1, { s with env := (ioRead a s.env).2 })
      else ((cartCpuRead a s.env).1, { s with env := (cartCpuRead a s.env).2 })

/-- R68, R237: the only fields a read of the CPU bus can change; of the environment, only its hidden state. -/
def Obligations.ReadsChangeOnlyPortState : Prop :=
  ∀ (a : Addr) (s : State),
    ∃ (occurred prev toggle : Bool) (v : BitVec 15) (buffer : Byte) (token : Nat),
      (memRead a s).2 =
        { s with
          ppu :=
            { s.ppu with nmiOccurred := occurred, nmiPrev := prev, w := toggle, v := v, bufferedData := buffer }
          env := { s.env with token := token } } ∧
      (a.toNat < 0x2000 ∨ a.toNat = 0x4014 → (memRead a s).2 = s)

/-- R53, R59: the one device a write of the CPU bus reaches, and, for RAM, that every other byte reads as before. -/
def Obligations.WritesReachOneDevice : Prop :=
  ∀ (a : Addr) (b : Byte) (s : State),
    if a.toNat < 0x2000 then
      ∃ ram, memWrite a b s = { s with ram := ram } ∧ ramWith s.ram ram [(a, b)]
    else if a.toNat < 0x4000 then
      let g := portWrite (a.toNat % 8) b { ppu := s.ppu, env := s.env }
      memWrite a b s = { s with ppu := g.ppu, env := g.env }
    else if a.toNat = 0x4014 then memWrite a b s = oamDma b s
    else if a.toNat < 0x4020 then memWrite a b s = { s with env := ioWrite a b s.env }
    else memWrite a b s = { s with env := cartCpuWrite a b s.env }

/-- R315, R316, R236: OAM DMA copies 256 bytes of the page, as read one after the other, to OAM from `oam_addr` on,
leaves `oam_addr` as it was, adds the stall, and changes no register of the CPU, no RAM and not the port latch. -/
def Obligations.OamDmaCopiesThePage : Prop :=
  ∀ (page : Byte) (s : State),
    let t := oamDma page s
    t.stall = s.stall + (if s.cycles % 2 = 1 then 514 else 513) ∧
    t.ppu.oamAddr = s.ppu.oamAddr ∧
    (∀ i, i < 256 →
      t.ppu.oam.read ((s.ppu.oamAddr.toNat + i) % 256) =
        (memRead (BitVec.ofNat 16 (page.toNat * 256 + i)) (dmaCopy page i 0 s)).1) ∧
    t.a = s.a ∧ t.x = s.x ∧ t.y = s.y ∧ t.pc = s.pc ∧ t.sp = s.sp ∧ t.p = s.p ∧ t.cycles = s.cycles ∧
    t.nmiPending = s.nmiPending ∧ t.ram = s.ram ∧ t.ppu.ioLatch = s.ppu.ioLatch ∧
    t.ppu.palette = s.ppu.palette ∧ t.ppu.nametable = s.ppu.nametable

/-- R120 to R122: LDA, LDX, LDY: opcodes, operand read, register, flags, and nothing else. -/
def Obligations.LoadsReadTheirOperand : Prop :=
  loads .lda (fun s b => { s with a := b }) ∧
  loads .ldx (fun s b => { s with x := b }) ∧
  loads .ldy (fun s b => { s with y := b }) ∧
  decodesTo [0xA9, 0xA5, 0xB5, 0xAD, 0xBD, 0xB9, 0xA1, 0xB1] (fun b w => (fullForms b w).map .lda) ∧
  decodesTo [0xA2, 0xA6, 0xB6, 0xAE, 0xBE]
    (fun b w => [.ldx (.imm b), .ldx (.mem (.zp b)), .ldx (.mem (.zpY b)), .ldx (.mem (.abs w)), .ldx (.mem (.absY w))]) ∧
  decodesTo [0xA0, 0xA4, 0xB4, 0xAC, 0xBC]
    (fun b w => [.ldy (.imm b), .ldy (.mem (.zp b)), .ldy (.mem (.zpX b)), .ldy (.mem (.abs w)), .ldy (.mem (.absX w))])

/-- R123 to R125: STA, STX, STY: opcodes, one write at the effective address, no flag and no register changed. -/
def Obligations.StoresWriteTheirRegister : Prop :=
  stores .sta State.a ∧ stores .stx State.x ∧ stores .sty State.y ∧
  decodesTo [0x85, 0x95, 0x8D, 0x9D, 0x99, 0x81, 0x91] (fun b w => (storeForms b w).map .sta) ∧
  decodesTo [0x86, 0x96, 0x8E] (fun b w => [.stx (.zp b), .stx (.zpY b), .stx (.abs w)]) ∧
  decodesTo [0x84, 0x94, 0x8C] (fun b w => [.sty (.zp b), .sty (.zpX b), .sty (.abs w)])

/-- R126 to R131: the six register transfers; TXS alone sets no flag. R167 to R170: INX, INY, DEX, DEY wrap. -/
def Obligations.TransfersAndIndexCounts : Prop :=
  movesByte .tax State.a (fun s b => { s with x := b }) ∧
  movesByte .tay State.a (fun s b => { s with y := b }) ∧
  movesByte .txa State.x (fun s b => { s with a := b }) ∧
  movesByte .tya State.y (fun s b => { s with a := b }) ∧
  movesByte .tsx State.sp (fun s b => { s with x := b }) ∧
  (∀ s : State, exec .txs s = .next { s with pc := s.pc + 1, cycles := s.cycles + 2, sp := s.x }) ∧
  movesByte .inx (fun s => BitVec.ofNat 8 (s.x.toNat + 1)) (fun s b => { s with x := b }) ∧
  movesByte .iny (fun s => BitVec.ofNat 8 (s.y.toNat + 1)) (fun s b => { s with y := b }) ∧
  movesByte .dex (fun s => BitVec.ofNat 8 (s.x.toNat + 255)) (fun s b => { s with x := b }) ∧
  movesByte .dey (fun s => BitVec.ofNat 8 (s.y.toNat + 255)) (fun s b => { s with y := b }) ∧
  decodesTo [0xAA, 0xA8, 0x8A, 0x98, 0xBA, 0x9A, 0xE8, 0xC8, 0xCA, 0x88]
    (fun _ _ => [.tax, .tay, .txa, .tya, .tsx, .txs, .inx, .iny, .dex, .dey])

/-- R142, and R140's reading of the overflow flag: ADC adds the operand and the carry. -/
def Obligations.AdcAddsWithCarry : Prop :=
  (∀ (o : ReadOperand) (s : State),
    let r := operandOf o s
    let sum := s.a.toNat + r.1.toNat + (if flagC s.p then 1 else 0)
    let result := BitVec.ofNat 8 sum
    let overflow := ((s.a ^^^ result) &&& (r.1 ^^^ result) &&& 0x80) != 0
    let signed := s.a.toInt + r.1.toInt + (if flagC s.p then 1 else 0)
    (∃ q, exec (.adc o) s = .next { r.2 with a := result, p := q } ∧
      statusIs s.p q (result.getLsbD 7) overflow (flagD s.p) (flagI s.p) (result == 0) (decide (255 < sum))) ∧
    overflow = decide (signed < -128 ∨ 127 < signed)) ∧
  decodesTo [0x69, 0x65, 0x75, 0x6D, 0x7D, 0x79, 0x61, 0x71] (fun b w => (fullForms b w).map .adc)

/-- R143, and R140's reading of the overflow flag: SBC subtracts the operand and the borrow. -/
def Obligations.SbcSubtractsWithBorrow : Prop :=
  (∀ (o : ReadOperand) (s : State),
    let r := operandOf o s
    let difference : Int := (s.a.toNat : Int) - (r.1.toNat : Int) - (if flagC s.p then 0 else 1)
    let result := BitVec.ofInt 8 difference
    let overflow := ((s.a ^^^ r.1) &&& (s.a ^^^ result) &&& 0x80) != 0
    let signed := s.a.toInt - r.1.toInt - (if flagC s.p then 0 else 1)
    (∃ q, exec (.sbc o) s = .next { r.2 with a := result, p := q } ∧
      statusIs s.p q (result.getLsbD 7) overflow (flagD s.p) (flagI s.p) (result == 0) (decide (0 ≤ difference))) ∧
    overflow = decide (signed < -128 ∨ 127 < signed)) ∧
  decodesTo [0xE9, 0xE5, 0xF5, 0xED, 0xFD, 0xF9, 0xE1, 0xF1] (fun b w => (fullForms b w).map .sbc)

/-- R144 to R146: AND, ORA, EOR. -/
def Obligations.LogicCombinesWithA : Prop :=
  bitwise .and (fun a m => a &&& m) ∧ bitwise .ora (fun a m => a ||| m) ∧ bitwise .eor (fun a m => a ^^^ m) ∧
  decodesTo [0x29, 0x25, 0x35, 0x2D, 0x3D, 0x39, 0x21, 0x31] (fun b w => (fullForms b w).map .and) ∧
  decodesTo [0x09, 0x05, 0x15, 0x0D, 0x1D, 0x19, 0x01, 0x11] (fun b w => (fullForms b w).map .ora) ∧
  decodesTo [0x49, 0x45, 0x55, 0x4D, 0x5D, 0x59, 0x41, 0x51] (fun b w => (fullForms b w).map .eor)

/-- R147 to R150: CMP, CPX, CPY and BIT change the status alone. -/
def Obligations.ComparesAndBitSetFlagsOnly : Prop :=
  compares .cmp State.a ∧ compares .cpx State.x ∧ compares .cpy State.y ∧
  (∀ (m : MemOperand) (s : State), m.isPlain = true →
    let r := operandOf (.mem m) s
    ∃ q, exec (.bit m) s = .next { r.2 with p := q } ∧
      statusIs s.p q (r.1.getLsbD 7) (r.1.getLsbD 6) (flagD s.p) (flagI s.p) ((s.a &&& r.1) == 0) (flagC s.p)) ∧
  decodesTo [0xC9, 0xC5, 0xD5, 0xCD, 0xDD, 0xD9, 0xC1, 0xD1] (fun b w => (fullForms b w).map .cmp) ∧
  decodesTo [0xE0, 0xE4, 0xEC, 0xC0, 0xC4, 0xCC, 0x24, 0x2C]
    (fun b w =>
      [.cpx (.imm b), .cpx (.mem (.zp b)), .cpx (.mem (.abs w)), .cpy (.imm b), .cpy (.mem (.zp b)),
       .cpy (.mem (.abs w)), .bit (.zp b), .bit (.abs w)])

/-- R141: ADC and SBC answer the same with `P.D` set as with it clear, the bit itself apart. -/
def Obligations.DecimalFlagIsIgnored : Prop :=
  ∀ (o : ReadOperand) (s t : State) (i : ReadOperand → Instr), i = .adc ∨ i = .sbc →
    exec (i o) s = .next t →
      exec (i o) { s with p := s.p ^^^ 0x08 } = .next { t with p := t.p ^^^ 0x08 }

/-- R160 to R166: ASL, LSR, ROL, ROR on the accumulator and in memory, INC and DEC in memory. In memory the operand's
address is read once, then written once. -/
def Obligations.ShiftsAndReadModifyWrite : Prop :=
  modifiesAccumulator (.asl .acc) (fun b _ => BitVec.ofNat 8 (b.toNat * 2)) (fun b _ => b.getLsbD 7) ∧
  modifiesAccumulator (.lsr .acc) (fun b _ => BitVec.ofNat 8 (b.toNat / 2)) (fun b _ => b.getLsbD 0) ∧
  modifiesAccumulator (.rol .acc) (fun b c => BitVec.ofNat 8 (b.toNat * 2 + (if c then 1 else 0)))
    (fun b _ => b.getLsbD 7) ∧
  modifiesAccumulator (.ror .acc) (fun b c => BitVec.ofNat 8 (b.toNat / 2 + (if c then 128 else 0)))
    (fun b _ => b.getLsbD 0) ∧
  modifiesMemory (fun m => .asl (.mem m)) (fun b _ => BitVec.ofNat 8 (b.toNat * 2)) (fun b _ => b.getLsbD 7) ∧
  modifiesMemory (fun m => .lsr (.mem m)) (fun b _ => BitVec.ofNat 8 (b.toNat / 2)) (fun b _ => b.getLsbD 0) ∧
  modifiesMemory (fun m => .rol (.mem m)) (fun b c => BitVec.ofNat 8 (b.toNat * 2 + (if c then 1 else 0)))
    (fun b _ => b.getLsbD 7) ∧
  modifiesMemory (fun m => .ror (.mem m)) (fun b c => BitVec.ofNat 8 (b.toNat / 2 + (if c then 128 else 0)))
    (fun b _ => b.getLsbD 0) ∧
  modifiesMemory .inc (fun b _ => BitVec.ofNat 8 (b.toNat + 1)) (fun _ c => c) ∧
  modifiesMemory .dec (fun b _ => BitVec.ofNat 8 (b.toNat + 255)) (fun _ c => c) ∧
  decodesTo [0x06, 0x16, 0x0E, 0x1E] (fun b w => (modifyForms b w).map fun m => .asl (.mem m)) ∧
  decodesTo [0x46, 0x56, 0x4E, 0x5E] (fun b w => (modifyForms b w).map fun m => .lsr (.mem m)) ∧
  decodesTo [0x26, 0x36, 0x2E, 0x3E] (fun b w => (modifyForms b w).map fun m => .rol (.mem m)) ∧
  decodesTo [0x66, 0x76, 0x6E, 0x7E] (fun b w => (modifyForms b w).map fun m => .ror (.mem m)) ∧
  decodesTo [0xE6, 0xF6, 0xEE, 0xFE] (fun b w => (modifyForms b w).map .inc) ∧
  decodesTo [0xC6, 0xD6, 0xCE, 0xDE] (fun b w => (modifyForms b w).map .dec) ∧
  decodesTo [0x0A, 0x4A, 0x2A, 0x6A] (fun _ _ => [.asl .acc, .lsr .acc, .rol .acc, .ror .acc])

/-- R180, R107, R58: JMP, and the pointer's second byte from the page of its first. -/
def Obligations.JumpsLoadPc : Prop :=
  (∀ (w : Addr) (s : State), exec (.jmp (.abs w)) s = .next { s with pc := w, cycles := s.cycles + 3 }) ∧
  (∀ (w : Addr) (s : State),
    let low := memRead w s
    let high := memRead (BitVec.ofNat 16 (w.toNat / 256 * 256 + (w.toNat + 1) % 256)) low.2
    exec (.jmp (.ind w)) s = .next { high.2 with pc := high.1 ++ low.1, cycles := s.cycles + 5 }) ∧
  decodesTo [0x4C, 0x6C] (fun _ w => [.jmp (.abs w), .jmp (.ind w)])

/-- R181, R182: JSR pushes the address of its third byte, high byte first; RTS pulls it and adds one. -/
def Obligations.SubroutineCallAndReturn : Prop :=
  (∀ (w : Addr) (s : State),
    let ret := s.pc + 2
    ∃ ram, exec (.jsr w) s = .next { s with pc := w, cycles := s.cycles + 6, sp := s.sp - 2, ram := ram } ∧
      ramWith s.ram ram [(word16 0x01 (s.sp - 1), loByte ret), (word16 0x01 s.sp, hiByte ret)]) ∧
  (∀ s : State,
    let low := s.ramByte (word16 0x01 (s.sp + 1))
    let high := s.ramByte (word16 0x01 (s.sp + 2))
    exec .rts s = .next { s with pc := (high ++ low) + 1, cycles := s.cycles + 6, sp := s.sp + 2 }) ∧
  decodesTo [0x20, 0x60] (fun _ w => [.jsr w, .rts])

/-- R183, R338, R184, R332: RTI restores the status and `PC`; BRK pushes `PC` plus two and the status with bits 4 and 5
set, sets `I` and goes to the vector at $FFFE. -/
def Obligations.SoftwareInterruptAndReturn : Prop :=
  (∀ s : State,
    let status := s.ramByte (word16 0x01 (s.sp + 1))
    let low := s.ramByte (word16 0x01 (s.sp + 2))
    let high := s.ramByte (word16 0x01 (s.sp + 3))
    exec .rti s = .next
      { s with pc := high ++ low, cycles := s.cycles + 6, sp := s.sp + 3, p := (status &&& 0xEF) ||| 0x20 }) ∧
  (∀ s : State,
    let ret := s.pc + 2
    let low := cartCpuRead 0xFFFE s.env
    let high := cartCpuRead 0xFFFF low.2
    ∃ ram q,
      exec .brk s = .next
        { s with
          pc := high.1 ++ low.1, cycles := s.cycles + 7, sp := s.sp - 3, p := q, ram := ram, env := high.2 } ∧
      statusIs s.p q (flagN s.p) (flagV s.p) (flagD s.p) true (flagZ s.p) (flagC s.p) ∧
      ramWith s.ram ram
        [(word16 0x01 (s.sp - 2), s.p ||| 0x30), (word16 0x01 (s.sp - 1), loByte ret), (word16 0x01 s.sp, hiByte ret)]) ∧
  decodesTo [0x40, 0x00] (fun _ _ => [.rti, .brk])

/-- R335: what an interrupt entry saves and where it goes. For BRK `PC` is the address after the opcode. -/
def Obligations.InterruptEntrySavesAndVectors : Prop :=
  ∀ (k : EntryKind) (s : State),
    let ret := if k = .brk then s.pc + 1 else s.pc
    let pushed := if k = .brk then s.p ||| 0x30 else (s.p &&& 0xEF) ||| 0x20
    let vector : Addr := if k = .nmi then 0xFFFA else 0xFFFE
    let low := cartCpuRead vector s.env
    let high := cartCpuRead (vector + 1) low.2
    ∃ ram q,
      interruptEntry k s =
        { s with
          pc := high.1 ++ low.1, cycles := s.cycles + (if k = .brk then 0 else 7), sp := s.sp - 3, p := q
          ram := ram, env := high.2 } ∧
      statusIs s.p q (flagN s.p) (flagV s.p) (flagD s.p) true (flagZ s.p) (flagC s.p) ∧
      ramWith s.ram ram
        [(word16 0x01 (s.sp - 2), pushed), (word16 0x01 (s.sp - 1), loByte ret), (word16 0x01 s.sp, hiByte ret)]

/-- R181, R182, R338, R17, R18: what is pushed comes back: RTS returns after JSR, RTI restores `PC`, `P` and `SP` after
an NMI or IRQ entry from a reachable status, PLA after PHA restores `A`, PLP after PHP restores a reachable `P`. -/
def Obligations.StackRoundTrips : Prop :=
  ∀ s : State,
    (∀ w : Addr, ∃ t, exec (.jsr w) s = .next t ∧
      exec .rts t = .next { s with pc := s.pc + 3, cycles := s.cycles + 12, ram := t.ram }) ∧
    (s.statusOk → ∀ k : EntryKind, k ≠ .brk →
      let t := interruptEntry k s
      exec .rti t = .next { s with cycles := s.cycles + 13, ram := t.ram, env := t.env }) ∧
    (∃ t q, exec .pha s = .next t ∧
      exec .pla t = .next { s with pc := s.pc + 2, cycles := s.cycles + 7, ram := t.ram, p := q } ∧ onlyZN s.p q s.a) ∧
    (s.statusOk → ∃ t, exec .php s = .next t ∧
      exec .plp t = .next { s with pc := s.pc + 2, cycles := s.cycles + 7, ram := t.ram })

/-- R185 to R193, R106: the eight branches. -/
def Obligations.BranchesTestTheirFlag : Prop :=
  branchesOn .bcc (fun p => !flagC p) ∧ branchesOn .bcs (fun p => flagC p) ∧
  branchesOn .beq (fun p => flagZ p) ∧ branchesOn .bne (fun p => !flagZ p) ∧
  branchesOn .bmi (fun p => flagN p) ∧ branchesOn .bpl (fun p => !flagN p) ∧
  branchesOn .bvc (fun p => !flagV p) ∧ branchesOn .bvs (fun p => flagV p) ∧
  decodesTo [0x90, 0xB0, 0xF0, 0xD0, 0x30, 0x10, 0x50, 0x70]
    (fun b _ => [.bcc b, .bcs b, .beq b, .bne b, .bmi b, .bpl b, .bvc b, .bvs b])

/-- R200 to R203, R17, R18: PHA, PHP, PLA, PLP. -/
def Obligations.StackInstructions : Prop :=
  (∀ s : State, ∃ ram,
    exec .pha s = .next { s with pc := s.pc + 1, cycles := s.cycles + 3, sp := s.sp - 1, ram := ram } ∧
      ramWith s.ram ram [(word16 0x01 s.sp, s.a)]) ∧
  (∀ s : State, ∃ ram,
    exec .php s = .next { s with pc := s.pc + 1, cycles := s.cycles + 3, sp := s.sp - 1, ram := ram } ∧
      ramWith s.ram ram [(word16 0x01 s.sp, s.p ||| 0x30)]) ∧
  (∀ s : State,
    let v := s.ramByte (word16 0x01 (s.sp + 1))
    ∃ q, exec .pla s = .next { s with pc := s.pc + 1, cycles := s.cycles + 4, sp := s.sp + 1, a := v, p := q } ∧
      onlyZN s.p q v) ∧
  (∀ s : State,
    let v := s.ramByte (word16 0x01 (s.sp + 1))
    exec .plp s = .next
      { s with pc := s.pc + 1, cycles := s.cycles + 4, sp := s.sp + 1, p := (v &&& 0xEF) ||| 0x20 }) ∧
  decodesTo [0x48, 0x08, 0x68, 0x28] (fun _ _ => [.pha, .php, .pla, .plp])

/-- R204 to R210: the seven flag instructions, each changing one bit of `P`. R211, R215: NOP and every illegal opcode
only advance `PC` by one and `cycles` by two. -/
def Obligations.FlagInstructionsAndNoOps : Prop :=
  changesStatusOnly .clc (fun p q => statusIs p q (flagN p) (flagV p) (flagD p) (flagI p) (flagZ p) false) ∧
  changesStatusOnly .sec (fun p q => statusIs p q (flagN p) (flagV p) (flagD p) (flagI p) (flagZ p) true) ∧
  changesStatusOnly .cli (fun p q => statusIs p q (flagN p) (flagV p) (flagD p) false (flagZ p) (flagC p)) ∧
  changesStatusOnly .sei (fun p q => statusIs p q (flagN p) (flagV p) (flagD p) true (flagZ p) (flagC p)) ∧
  changesStatusOnly .clv (fun p q => statusIs p q (flagN p) false (flagD p) (flagI p) (flagZ p) (flagC p)) ∧
  changesStatusOnly .cld (fun p q => statusIs p q (flagN p) (flagV p) false (flagI p) (flagZ p) (flagC p)) ∧
  changesStatusOnly .sed (fun p q => statusIs p q (flagN p) (flagV p) true (flagI p) (flagZ p) (flagC p)) ∧
  (∀ s : State, exec .nop s = .next { s with pc := s.pc + 1, cycles := s.cycles + 2 }) ∧
  (∀ (op : Byte) (s : State), exec (.illegal op) s = .next { s with pc := s.pc + 1, cycles := s.cycles + 2 }) ∧
  decodesTo [0x18, 0x38, 0x58, 0x78, 0xB8, 0xD8, 0xF8, 0xEA]
    (fun _ _ => [.clc, .sec, .cli, .sei, .clv, .cld, .sed, .nop])

/-- R220, R221, R223, R226, R237, R239: the writes to $2000 to $2003, with the latch. -/
def Obligations.ControlPortsStoreTheirBits : Prop :=
  ∀ (b : Byte) (g : Video),
    (portWrite 0 b g =
      { g with
        ppu :=
          { g.ppu with
            ioLatch := b
            control :=
              { nametable := b.extractLsb' 0 2, increment := b.getLsbD 2, spriteTable := b.getLsbD 3
                backgroundTable := b.getLsbD 4, spriteSize := b.getLsbD 5, masterSlave := b.getLsbD 6 }
            nmiOutput := b.getLsbD 7
            nmiPrev := b.getLsbD 7 && g.ppu.nmiOccurred
            nmiDelay := if b.getLsbD 7 && g.ppu.nmiOccurred && !g.ppu.nmiPrev then 2 else g.ppu.nmiDelay
            t := (g.ppu.t &&& 0x73FF) ||| (b &&& 0x03).setWidth 15 * 0x0400 } }) ∧
    (portWrite 1 b g =
      { g with
        ppu :=
          { g.ppu with
            ioLatch := b
            mask :=
              { grayscale := b.getLsbD 0, showLeftBackground := b.getLsbD 1, showLeftSprites := b.getLsbD 2
                showBackground := b.getLsbD 3, showSprites := b.getLsbD 4, redTint := b.getLsbD 5
                greenTint := b.getLsbD 6, blueTint := b.getLsbD 7 } } }) ∧
    portWrite 2 b g = { g with ppu := { g.ppu with ioLatch := b } } ∧
    portWrite 3 b g = { g with ppu := { g.ppu with ioLatch := b, oamAddr := b } }

/-- R225, R238, R340: what a read of $2002 answers and clears, and that the write-only ports answer the latch. -/
def Obligations.StatusReadAnswersAndClears : Prop :=
  ∀ g : Video,
    (∀ k, k < 5 → (portRead 2 g).1.getLsbD k = g.ppu.ioLatch.getLsbD k) ∧
    (portRead 2 g).1.getLsbD 5 = g.ppu.spriteOverflow ∧
    (portRead 2 g).1.getLsbD 6 = g.ppu.spriteZeroHit ∧
    (portRead 2 g).1.getLsbD 7 = g.ppu.nmiOccurred ∧
    (portRead 2 g).2 = { g with ppu := { g.ppu with nmiOccurred := false, nmiPrev := false, w := false } } ∧
    ∀ n, n ∈ [0, 1, 3, 5, 6] → portRead n g = (g.ppu.ioLatch, g)

/-- R227, R228, R75: $2004 reads mask the attribute byte, its writes store all eight bits and count. -/
def Obligations.OamPortReadsAndWrites : Prop :=
  ∀ (b : Byte) (g : Video),
    (portRead 4 g =
      (if g.ppu.oamAddr.toNat % 4 = 2 then g.ppu.oam.read g.ppu.oamAddr.toNat &&& 0xE3
       else g.ppu.oam.read g.ppu.oamAddr.toNat, g)) ∧
    ∃ oam,
      portWrite 4 b g = { g with ppu := { g.ppu with ioLatch := b, oam := oam, oamAddr := g.ppu.oamAddr + 1 } } ∧
      ∀ k, oam.read k = if k = g.ppu.oamAddr.toNat then b else g.ppu.oam.read k

/-- R229 to R232: the four halves of the $2005 and $2006 writes, by the fields of `t` (R26); and R240: two writes to
$2005 then two to $2006, from `w = 0`. -/
def Obligations.ScrollAndAddressWrites : Prop :=
  (∀ (b : Byte) (g : Video),
    (g.ppu.w = false → ∃ t,
      portWrite 5 b g = { g with ppu := { g.ppu with ioLatch := b, t := t, x := b.extractLsb' 0 3, w := true } } ∧
      field t 0 5 = b.extractLsb' 3 5 ∧ sameOutside g.ppu.t t 0 5) ∧
    (g.ppu.w = true → ∃ t,
      portWrite 5 b g = { g with ppu := { g.ppu with ioLatch := b, t := t, w := false } } ∧
      field t 12 3 = b.extractLsb' 0 3 ∧ field t 5 5 = b.extractLsb' 3 5 ∧ field t 0 5 = field g.ppu.t 0 5 ∧
      field t 10 2 = field g.ppu.t 10 2) ∧
    (g.ppu.w = false → ∃ t,
      portWrite 6 b g = { g with ppu := { g.ppu with ioLatch := b, t := t, w := true } } ∧
      field t 8 6 = b.extractLsb' 0 6 ∧ t.getLsbD 14 = false ∧ field t 0 8 = field g.ppu.t 0 8) ∧
    (g.ppu.w = true → ∃ t,
      portWrite 6 b g = { g with ppu := { g.ppu with ioLatch := b, t := t, v := t, w := false } } ∧
      field t 0 8 = b ∧ sameOutside g.ppu.t t 0 8)) ∧
  ∀ (a b c d : Byte) (g : Video), g.ppu.w = false →
    let n := BitVec.ofNat 15 (c.toNat % 64 * 256 + d.toNat)
    portWrite 6 d (portWrite 6 c (portWrite 5 b (portWrite 5 a g))) =
      { g with ppu := { g.ppu with ioLatch := d, x := a.extractLsb' 0 3, w := false, v := n, t := n } }

/-- R233 to R235: $2007 reads one behind below the palette, at once in it; both accesses advance `v`. -/
def Obligations.DataPortReadsAndWrites : Prop :=
  ∀ (b : Byte) (g : Video),
    let v := g.ppu.v.toNat
    let next := BitVec.ofNat 15 (v + (if g.ppu.control.increment then 32 else 1))
    let value := ppuRead (BitVec.ofNat 16 v) g.ppu g.env
    let under := ppuRead (BitVec.ofNat 16 (v - 0x1000)) g.ppu value.2
    (portRead 7 g =
      if v % 0x4000 < 0x3F00 then
        (g.ppu.bufferedData, { ppu := { g.ppu with bufferedData := value.1, v := next }, env := value.2 })
      else (value.1, { ppu := { g.ppu with bufferedData := under.1, v := next }, env := under.2 })) ∧
    let h := ppuWrite (BitVec.ofNat 16 v) b { g with ppu := { g.ppu with ioLatch := b } }
    portWrite 7 b g = { h with ppu := { h.ppu with v := next } }

/-- R70, R71: the one device an access of the PPU bus reaches, and, for the nametables, that every other byte reads as
before. -/
def Obligations.PpuBusReachesOneDevice : Prop :=
  ∀ (a : Addr) (b : Byte) (g : Video),
    let k := a.toNat % 0x4000
    ppuRead a g.ppu g.env =
      (if k < 0x2000 then cartPpuRead k g.env
       else if k < 0x3F00 then (g.ppu.nametable.read (mirrorAddress g.env.mirror k), g.env)
       else (readPalette (k % 32) g.ppu, g.env)) ∧
    if k < 0x2000 then ppuWrite a b g = { g with env := cartPpuWrite k b g.env }
    else if k < 0x3F00 then
      ∃ table, ppuWrite a b g = { g with ppu := { g.ppu with nametable := table } } ∧
        ∀ j, table.read j = if j = mirrorAddress g.env.mirror k then b else g.ppu.nametable.read j
    else ppuWrite a b g = { g with ppu := writePalette (k % 32) b g.ppu }

/-- R72 to R74: the nametable halves of each mirroring mode, and the palette's fold and read-back property. -/
def Obligations.NametablesAndPaletteFold : Prop :=
  (∀ table off, table < 4 → off < 0x0400 →
    let half : Mirroring → Nat := fun mode =>
      match mode with
      | .horizontal => if table < 2 then 0 else 1
      | .vertical => if table = 0 ∨ table = 2 then 0 else 1
      | .single0 => 0
      | .single1 => 1
    ∀ mode,
      mirrorAddress mode (0x2000 + table * 0x0400 + off) = half mode * 0x0400 + off ∧
      mirrorAddress mode (0x3000 + table * 0x0400 + off) = half mode * 0x0400 + off) ∧
  ∀ (p : Ppu) (b : Byte) (i j : Nat), i < 32 → j < 32 →
    (16 ≤ i → i % 4 = 0 → readPalette i p = readPalette (i - 16) p) ∧
    readPalette i (writePalette i b p) = b ∧
    (16 ≤ i → i % 4 = 0 → readPalette (i - 16) (writePalette i b p) = b) ∧
    (i % 16 ≠ j % 16 ∨ (i ≠ j ∧ i % 4 ≠ 0) → readPalette j (writePalette i b p) = readPalette j p)

/-- R251, R224: the counters as one dot number, modulo 262 times 341, with the odd frame's skipped dot. -/
def Obligations.TickCountsDots : Prop :=
  ∀ p : Ppu, p.cycle ≤ 340 → p.scanline ≤ 261 →
    let n := p.scanline * 341 + p.cycle
    let enabled := p.mask.showBackground || p.mask.showSprites
    let m := if enabled && p.f && n == 261 * 341 + 339 then 0 else (n + 1) % 89342
    tick p =
      { p with
        cycle := m % 341, scanline := m / 341
        frame := if m = 0 then p.frame + 1 else p.frame
        f := if m = 0 then !p.f else p.f }

/-- R292, with the dots of R251 and R290: a full pass from the start of a frame, and the window with two wraps. That the
frame sink is the counter `framesSent` is the model's choice (log entry 6; R317 allows it). -/
def Obligations.FullPassCountsOneFrame : Prop :=
  (∀ g : Video, g.ppu.cycle = 0 → g.ppu.scanline = 0 →
    let last := if g.ppu.rendering && g.ppu.f then 89341 else 89342
    (∀ n, n < 82182 → (ppuSteps n g).ppu.framesSent = g.ppu.framesSent) ∧
    (∀ n, 82182 ≤ n → n ≤ 89342 → (ppuSteps n g).ppu.framesSent = g.ppu.framesSent + 1) ∧
    (∀ n, n < last → (ppuSteps n g).ppu.frame = g.ppu.frame) ∧
    (∀ n, last ≤ n → n ≤ 89342 → (ppuSteps n g).ppu.frame = g.ppu.frame + 1) ∧
    (ppuSteps last g).ppu.cycle = 0 ∧ (ppuSteps last g).ppu.scanline = 0 ∧ (ppuSteps last g).ppu.f = !g.ppu.f) ∧
  ∀ g : Video, g.ppu.cycle = 340 → g.ppu.scanline = 261 → g.ppu.rendering = true → g.ppu.f = false →
    (ppuSteps 89342 g).ppu.frame = g.ppu.frame + 2

/-- R340, R341: the edge detector's two rules; and from an armed countdown, that the second tick latches the NMI if the
level still holds, and that a status read in between cancels it (R225). -/
def Obligations.NmiEdgeIsDelayedAndRetested : Prop :=
  (∀ p : Ppu,
    nmiChange p =
      { p with
        nmiDelay := if p.nmiOutput = true ∧ p.nmiOccurred = true ∧ p.nmiPrev = false then 2 else p.nmiDelay
        nmiPrev := p.nmiOutput && p.nmiOccurred }) ∧
  (∀ s : State,
    nmiDelayTick s =
      { s with
        ppu := { s.ppu with nmiDelay := s.ppu.nmiDelay - 1 }
        nmiPending := s.nmiPending || (s.ppu.nmiDelay == 1 && s.ppu.nmiOutput && s.ppu.nmiOccurred) }) ∧
  ∀ s : State, s.ppu.nmiDelay = 2 → s.nmiPending = false →
    let one := nmiDelayTick s
    one.nmiPending = false ∧
    (nmiDelayTick one).nmiPending = (s.ppu.nmiOutput && s.ppu.nmiOccurred) ∧
    (nmiDelayTick { one with ppu := (readStatus one.ppu).2 }).nmiPending = false

/-- R265 to R268: the scroll increments and copies, by the fields of `v` (R26). -/
def Obligations.ScrollIncrementsByField : Prop :=
  ∀ v t : BitVec 15,
    (field (incrementX v) 0 5 = field v 0 5 + 1 ∧
      (incrementX v).getLsbD 10 = (v.getLsbD 10 ^^ (field v 0 5 == 31)) ∧
      field (incrementX v) 5 5 = field v 5 5 ∧ field (incrementX v) 11 4 = field v 11 4) ∧
    (field (incrementY v) 12 3 = field v 12 3 + 1 ∧
      field (incrementY v) 5 5 =
        (if field v 12 3 ≠ 7 then field v 5 5
         else if field v 5 5 = 29 ∨ field v 5 5 = 31 then 0 else field v 5 5 + 1) ∧
      (incrementY v).getLsbD 11 = (v.getLsbD 11 ^^ (field v 12 3 == 7 && field v 5 5 == 29)) ∧
      field (incrementY v) 0 5 = field v 0 5 ∧ (incrementY v).getLsbD 10 = v.getLsbD 10) ∧
    (field (copyX v t) 0 5 = field t 0 5 ∧ (copyX v t).getLsbD 10 = t.getLsbD 10 ∧
      field (copyX v t) 5 5 = field v 5 5 ∧ field (copyX v t) 11 4 = field v 11 4) ∧
    (field (copyY v t) 5 5 = field t 5 5 ∧ field (copyY v t) 11 4 = field t 11 4 ∧
      field (copyY v t) 0 5 = field v 0 5 ∧ (copyY v t).getLsbD 10 = v.getLsbD 10)

/-- R260 to R263: the addresses of the four background fetches, by the fields of `v` (R26), and what each keeps. -/
def Obligations.BackgroundFetchAddresses : Prop :=
  ∀ g : Video,
    let p := g.ppu
    let coarseX := (field p.v 0 5).toNat
    let coarseY := (field p.v 5 5).toNat
    let table := (field p.v 10 2).toNat
    let plane := (if p.control.backgroundTable then 0x1000 else 0) + p.nametableByte.toNat * 16 + (field p.v 12 3).toNat
    let name := ppuRead (BitVec.ofNat 16 (0x2000 + table * 0x0400 + coarseY * 32 + coarseX)) p g.env
    let attr :=
      ppuRead (BitVec.ofNat 16 (0x2000 + table * 0x0400 + 0x03C0 + coarseY / 4 * 8 + coarseX / 4)) p g.env
    let shift := coarseY / 2 % 2 * 4 + coarseX / 2 % 2 * 2
    let low := ppuRead (BitVec.ofNat 16 plane) p g.env
    let high := ppuRead (BitVec.ofNat 16 (plane + 8)) p g.env
    fetchNametableByte g = { ppu := { p with nametableByte := name.1 }, env := name.2 } ∧
    fetchAttributeByte g =
      { ppu := { p with attributeByte := BitVec.ofNat 8 (attr.1.toNat / 2 ^ shift % 4 * 4) }, env := attr.2 } ∧
    fetchLowTileByte g = { ppu := { p with lowTileByte := low.1 }, env := low.2 } ∧
    fetchHighTileByte g = { ppu := { p with highTileByte := high.1 }, env := high.2 }

/-- R264: the eight pixels of a tile row enter the low half of the shift buffer by OR, the leftmost highest. -/
def Obligations.TileRowEntersTheBuffer : Prop :=
  ∀ p : Ppu, p.attributeOk →
    ∃ data : BitVec 64, storeTileData p = { p with tileData := data } ∧
      (∀ k, 32 ≤ k → data.getLsbD k = p.tileData.getLsbD k) ∧
      ∀ i, i < 8 →
        data.extractLsb' (4 * (7 - i)) 4 =
          p.tileData.extractLsb' (4 * (7 - i)) 4 |||
            BitVec.ofNat 4 (p.attributeByte.toNat + (if p.lowTileByte.getLsbD (7 - i) then 1 else 0) +
              (if p.highTileByte.getLsbD (7 - i) then 2 else 0))

/-- R271, R275: the first eight sprites in range on the scanline fill the slots in OAM order; a ninth sets the overflow
flag; the patterns are fetched in that order, and nothing else of the PPU changes. -/
def Obligations.SpriteEvaluationFillsSlots : Prop :=
  ∀ g : Video,
    let p := g.ppu
    let top (i : Nat) : Nat := (p.oam.read (4 * i)).toNat
    let height := if p.control.spriteSize then 16 else 8
    let found := (List.range 64).filter fun i => decide (top i ≤ p.scanline ∧ p.scanline < top i + height)
    let after (k : Nat) : Env :=
      (found.take k).foldl (fun e i => (fetchSpritePattern i (p.scanline - top i) p e).2) g.env
    ∃ slots : Vector SpriteSlot 8,
      evaluateSprites g =
        { ppu :=
            { p with
              spriteCount := min found.length 8
              spriteOverflow := p.spriteOverflow || decide (8 < found.length)
              sprites := slots }
          env := after 8 } ∧
      (∀ k (h : k < 8) (hk : k < found.length),
        slots[k] =
          { pattern := (fetchSpritePattern found[k] (p.scanline - top found[k]) p (after k)).1
            position := p.oam.read (4 * found[k] + 3)
            priority := (p.oam.read (4 * found[k] + 2)).getLsbD 5
            index := BitVec.ofNat 8 found[k] }) ∧
      ∀ k (h : k < 8), found.length ≤ k → slots[k] = p.sprites[k]

/-- R272: the two bit planes' addresses of a sprite row, flipped or not, for both sizes, and its eight pixels. -/
def Obligations.SpritePatternFetch : Prop :=
  ∀ (p : Ppu) (e : Env) (i row : Nat), row < (if p.control.spriteSize then 16 else 8) →
    let tile := (p.oam.read (4 * i + 1)).toNat
    let attr := p.oam.read (4 * i + 2)
    let line := if attr.getLsbD 7 then (if p.control.spriteSize then 15 else 7) - row else row
    let address :=
      if p.control.spriteSize then 0x1000 * (tile % 2) + (tile / 2 * 2 + line / 8) * 16 + line % 8
      else (if p.control.spriteTable then 0x1000 else 0) + tile * 16 + line
    let low := ppuRead (BitVec.ofNat 16 address) p e
    let high := ppuRead (BitVec.ofNat 16 (address + 8)) p low.2
    (fetchSpritePattern i row p e).2 = high.2 ∧
    ∀ k, k < 8 →
      let j := if attr.getLsbD 6 then k else 7 - k
      (fetchSpritePattern i row p e).1.extractLsb' (4 * (7 - k)) 4 =
        BitVec.ofNat 4 (attr.toNat % 4 * 4 + (if low.1.getLsbD j then 1 else 0) + (if high.1.getLsbD j then 2 else 0))

/-- R278, R279: the background tap by fine X, and the first opaque sprite slot at the dot. -/
def Obligations.LayersOfAPixel : Prop :=
  ∀ p : Ppu,
    ((backgroundPixel p).toNat =
      if p.mask.showBackground then p.tileData.toNat / 2 ^ (32 + (7 - p.x.toNat) * 4) % 16 else 0) ∧
    (p.mask.showSprites = false → spritePixel p = (0, 0)) ∧
    (p.mask.showSprites = true → p.spriteCount ≤ 8 → 1 ≤ p.cycle →
      let color (i : Nat) : Nat :=
        let left := (p.sprites[i]?.getD ⟨0, 0, false, 0⟩).position.toNat
        if left ≤ p.cycle - 1 ∧ p.cycle - 1 ≤ left + 7 then
          (p.sprites[i]?.getD ⟨0, 0, false, 0⟩).pattern.toNat / 2 ^ ((7 - (p.cycle - 1 - left)) * 4) % 16
        else 0
      (∀ i, i < p.spriteCount → color i % 4 ≠ 0 → (∀ j, j < i → color j % 4 = 0) →
        (spritePixel p).1 = i ∧ (spritePixel p).2.toNat = color i) ∧
      ((∀ i, i < p.spriteCount → color i % 4 = 0) → spritePixel p = (0, 0)))

/-- R280 to R282: the multiplexer, the sprite-zero hit and the one pixel of `back` that is written. -/
def Obligations.RenderPixelMultiplexes : Prop :=
  ∀ p : Ppu,
    let px := p.cycle - 1
    let found := spritePixel p
    let bg := if px < 8 ∧ p.mask.showLeftBackground = false then 0 else (backgroundPixel p).toNat
    let sp := if px < 8 ∧ p.mask.showLeftSprites = false then 0 else found.2.toNat
    let slot := p.sprites[found.1]?.getD ⟨0, 0, false, 0⟩
    let color :=
      if bg % 4 = 0 ∧ sp % 4 = 0 then 0
      else if bg % 4 = 0 then sp + 16
      else if sp % 4 = 0 then bg
      else if slot.priority then bg else sp + 16
    ∃ back,
      renderPixel p =
        { p with
          spriteZeroHit :=
            p.spriteZeroHit || decide (bg % 4 ≠ 0 ∧ sp % 4 ≠ 0 ∧ slot.index = 0 ∧ px < 255)
          back := back } ∧
      ∀ y x, Grid.read back y x =
        if y = p.scanline ∧ x = px then (readPalette color p).setWidth 6 else Grid.read p.back y x

/-- R250, with the dots of R267, R268 and R271: with rendering enabled, what each dot of a fetch window runs and in which
order, and the dots 257 and 280 to 304. -/
def Obligations.RenderingDotsRunTheirUnits : Prop :=
  ∀ g : Video, g.ppu.rendering = true →
    let t := tick g.ppu
    let on (p : Ppu) : Video := { ppu := p, env := g.env }
    (t.scanline < 240 ∨ t.scanline = 261 → (1 ≤ t.cycle ∧ t.cycle ≤ 256) ∨ (321 ≤ t.cycle ∧ t.cycle ≤ 336) →
      let p := if t.scanline < 240 ∧ t.cycle ≤ 256 then renderPixel t else t
      let s := on { p with tileData := BitVec.ofNat 64 (p.tileData.toNat * 16) }
      let f :=
        if t.cycle % 8 = 1 then fetchNametableByte s
        else if t.cycle % 8 = 3 then fetchAttributeByte s
        else if t.cycle % 8 = 5 then fetchLowTileByte s
        else if t.cycle % 8 = 7 then fetchHighTileByte s
        else if t.cycle % 8 = 0 then { s with ppu := storeTileData s.ppu }
        else s
      let v := if t.cycle % 8 = 0 then incrementX t.v else t.v
      let h := { f with ppu := { f.ppu with v := if t.cycle = 256 then incrementY v else v } }
      ppuStep g =
        if t.scanline = 261 ∧ t.cycle = 1 then { h with ppu := clearVerticalBlank h.ppu } else h) ∧
    (t.scanline = 261 → 280 ≤ t.cycle → t.cycle ≤ 304 → ppuStep g = on { t with v := copyY t.v t.t }) ∧
    (t.cycle = 257 →
      ppuStep g =
        if t.scanline < 240 then evaluateSprites (on { t with v := copyX t.v t.t })
        else on { t with v := if t.scanline = 261 then copyX t.v t.t else t.v, spriteCount := 0 })

/-- R283, R250: with rendering disabled a dot leaves `v`, the fetch latches and the sprite slots alone, and a visible
dot writes the backdrop colour. -/
def Obligations.RenderingDisabledDrawsBackdrop : Prop :=
  ∀ g : Video, g.ppu.rendering = false →
    let t := tick g.ppu
    let q := (ppuStep g).ppu
    q.v = g.ppu.v ∧ q.tileData = g.ppu.tileData ∧ q.nametableByte = g.ppu.nametableByte ∧
    q.attributeByte = g.ppu.attributeByte ∧ q.lowTileByte = g.ppu.lowTileByte ∧
    q.highTileByte = g.ppu.highTileByte ∧ q.spriteCount = g.ppu.spriteCount ∧ q.sprites = g.ppu.sprites ∧
    (t.scanline < 240 → 1 ≤ t.cycle → t.cycle ≤ 256 →
      Grid.read q.back t.scanline (t.cycle - 1) = (readPalette 0 g.ppu).setWidth 6)

/-- R290, R291, R317: vertical blank begins at the dot (241, 1) and ends at (261, 1); only the first hands a frame over.
The sink is the counter `framesSent` (R317 allows it) and a contact of the environment (log entries 1, 6). -/
def Obligations.VerticalBlankBeginsAndEnds : Prop :=
  ∀ g : Video,
    setVerticalBlank g =
      { ppu :=
          { g.ppu with
            front := g.ppu.back
            back := g.ppu.front
            framesSent := g.ppu.framesSent + 1
            nmiOccurred := true
            nmiPrev := g.ppu.nmiOutput
            nmiDelay := if g.ppu.nmiOutput = true ∧ g.ppu.nmiPrev = false then 2 else g.ppu.nmiDelay }
        env := { g.env with token := Config.envNext g.env.token (.frameSink g.ppu.back) } } ∧
    clearVerticalBlank g.ppu =
      { g.ppu with nmiOccurred := false, nmiPrev := false, spriteZeroHit := false, spriteOverflow := false } ∧
    let t := tick g.ppu
    let q := (ppuStep g).ppu
    (t.scanline = 241 → t.cycle = 1 → ppuStep g = setVerticalBlank { g with ppu := t }) ∧
    (t.scanline = 261 → t.cycle = 1 →
      q.nmiOccurred = false ∧ q.nmiPrev = false ∧ q.spriteZeroHit = false ∧ q.spriteOverflow = false) ∧
    q.framesSent = g.ppu.framesSent + (if t.scanline = 241 ∧ t.cycle = 1 then 1 else 0)

/-- R252: the dots outside the windows only move the counters. -/
def Obligations.IdleDotsOnlyMoveTheCounters : Prop :=
  ∀ g : Video,
    let t := tick g.ppu
    ((240 ≤ t.scanline ∧ t.scanline ≤ 260 ∧ ¬(t.scanline = 241 ∧ t.cycle = 1) ∧ t.cycle ≠ 257) ∨
      ((t.cycle = 0 ∨ (258 ≤ t.cycle ∧ t.cycle ≤ 320) ∨ 337 ≤ t.cycle) ∧
        (t.scanline < 240 ∨ (t.scanline = 261 ∧ ¬(280 ≤ t.cycle ∧ t.cycle ≤ 304))))) →
    ppuStep g = { g with ppu := t }
end

