-- ==== Sys2Proof/Laws/Memory.lean ====
section
/-! SUPPORT. The laws of the sparse tables: a read after a write, at the same key and at another, and that every write
keeps the canonical form. -/

namespace Sys2Proof.Machine

variable {α : Type}

@[simp] theorem Cells.find?_nil (k : Nat) : Cells.find? ([] : Cells α) k = none := rfl

@[simp] theorem Cells.read_nil (d : α) (k : Nat) : Cells.read d [] k = d := rfl

theorem Cells.find?_insert (m : Cells α) (k j : Nat) (v : α) :
    Cells.find? (Cells.insert m k v) j = if k = j then some v else Cells.find? m j := by
  induction m with
  | nil => simp [Cells.insert, Cells.find?]
  | cons c m ih => grind [Cells.insert, Cells.find?]

theorem Cells.find?_erase (m : Cells α) (k j : Nat) :
    Cells.find? (Cells.erase m k) j = if k = j then none else Cells.find? m j := by
  induction m with
  | nil => simp [Cells.erase]
  | cons c m ih => grind [Cells.erase, Cells.find?]

theorem Cells.find?_write [DecidableEq α] (d : α) (m : Cells α) (k j : Nat) (v : α) :
    Cells.find? (Cells.write d m k v) j = if k = j then (if v = d then none else some v) else Cells.find? m j := by
  grind [Cells.write, Cells.find?_insert, Cells.find?_erase]

/-- Read after write. -/
theorem Cells.read_write [DecidableEq α] (d : α) (m : Cells α) (k j : Nat) (v : α) :
    Cells.read d (Cells.write d m k v) j = if k = j then v else Cells.read d m j := by
  grind [Cells.read, Cells.find?_write]

theorem Memory.read_write (m : Memory) (k j : Nat) (b : Byte) :
    (m.write k b).read j = if k = j then b else m.read j := Cells.read_write 0 m k j b

theorem Grid.read_write (g : Grid) (y x y' x' : Nat) (c : Color) :
    Grid.read (Grid.write g y x c) y' x' = if y = y' ∧ x = x' then c else Grid.read g y' x' := by
  unfold Grid.read Grid.write
  grind [Cells.read_write]

/-- The keys of a table that has lost an entry are keys of the table. -/
theorem Cells.mem_erase {m : Cells α} {k : Nat} {c : Nat × α} (h : c ∈ Cells.erase m k) : c ∈ m ∧ c.1 ≠ k := by
  induction m with
  | nil => simp [Cells.erase] at h
  | cons b m ih => grind [Cells.erase]

theorem Cells.mem_insert {m : Cells α} {k : Nat} {v : α} {c : Nat × α} (h : c ∈ Cells.insert m k v) :
    c = (k, v) ∨ c ∈ m := by
  induction m with
  | nil => simpa [Cells.insert] using h
  | cons b m ih => grind [Cells.insert]

theorem Cells.mem_write [DecidableEq α] {d : α} {m : Cells α} {k : Nat} {v : α} {c : Nat × α}
    (h : c ∈ Cells.write d m k v) : (c = (k, v) ∧ v ≠ d) ∨ c ∈ m := by
  grind [Cells.write, Cells.mem_erase, Cells.mem_insert]

/-- Keys stay strictly rising. -/
abbrev Cells.sorted (m : Cells α) : Prop := m.Pairwise (fun b c => b.1 < c.1)

theorem Cells.sorted_erase {m : Cells α} (h : Cells.sorted m) (k : Nat) : Cells.sorted (Cells.erase m k) := by
  induction m with
  | nil => simp [Cells.erase]
  | cons b m ih =>
    replace h := List.pairwise_cons.1 h
    unfold Cells.erase
    split
    · exact ih h.2
    · exact List.pairwise_cons.2 ⟨fun c hc => h.1 c (Cells.mem_erase hc).1, ih h.2⟩

theorem Cells.sorted_insert {m : Cells α} (h : Cells.sorted m) (k : Nat) (v : α) :
    Cells.sorted (Cells.insert m k v) := by
  induction m with
  | nil => simp [Cells.insert]
  | cons b m ih =>
    have h' := List.pairwise_cons.1 h
    unfold Cells.insert
    split
    · exact List.pairwise_cons.2 ⟨fun c hc => by grind, h⟩
    · split
      · exact List.pairwise_cons.2 ⟨fun c hc => by grind, h'.2⟩
      · exact List.pairwise_cons.2 ⟨fun c hc => by rcases Cells.mem_insert hc with rfl | hc <;> grind, ih h'.2⟩

/-- A write inside the size keeps the canonical form. -/
theorem Cells.wf_write [DecidableEq α] {size : Nat} {d : α} {m : Cells α} (h : Cells.wf size d m) {k : Nat}
    (hk : k < size) (v : α) : Cells.wf size d (Cells.write d m k v) := by
  refine ⟨?_, fun c hc => ?_⟩
  · unfold Cells.write
    split
    · exact Cells.sorted_erase h.1 k
    · exact Cells.sorted_insert h.1 k v
  · rcases Cells.mem_write hc with ⟨rfl, hv⟩ | hc
    · exact ⟨hk, hv⟩
    · exact h.2 c hc

theorem Memory.wf_write {size : Nat} {m : Memory} (h : Memory.wf size m) {k : Nat} (hk : k < size) (b : Byte) :
    Memory.wf size (m.write k b) := Cells.wf_write h hk b

theorem Cells.find?_mem {m : Cells α} {k : Nat} {v : α} (h : Cells.find? m k = some v) : (k, v) ∈ m := by
  induction m with
  | nil => simp at h
  | cons c m ih => grind [Cells.find?]

theorem Cells.wf_row {g : Grid} (h : Grid.wf g) (y : Nat) : Cells.wf 256 (0 : Color) (Cells.read [] g y) := by
  unfold Cells.read
  cases hf : Cells.find? g y with
  | none => simp [Cells.wf]
  | some r => exact h.2 _ (Cells.find?_mem hf)

theorem Grid.wf_write {g : Grid} (h : Grid.wf g) {y x : Nat} (hy : y < 240) (hx : x < 256) (c : Color) :
    Grid.wf (Grid.write g y x c) := by
  have hrow := Cells.wf_write (Cells.wf_row h y) hx c
  refine ⟨Cells.wf_write h.1 hy _, fun r hr => ?_⟩
  rcases Cells.mem_write hr with ⟨rfl, -⟩ | hr
  · exact hrow
  · exact h.2 r hr

/-- A store keeps the canonical form of an image. -/
theorem Image.wf_store {size : Nat} {m : Image} (h : Image.wf size m) {a : Nat} (ha : a < size) (b : Byte) :
    Image.wf size (m.store a b) := by
  obtain ⟨cells, other, writable⟩ := m
  obtain ⟨hs, hc⟩ := h
  cases writable with
  | false => exact ⟨hs, hc⟩
  | true =>
    cases other with
    | none =>
      refine ⟨Cells.sorted_insert hs a b, fun c h => ?_⟩
      rcases Cells.mem_insert h with rfl | h
      · exact ⟨ha, by simp [Image.store, Image.put]⟩
      · exact hc c h
    | some d =>
      have hw : Cells.wf size d cells := ⟨hs, fun c h => ⟨(hc c h).1, fun e => (hc c h).2 (by simp [e])⟩⟩
      have := Cells.wf_write hw ha b
      exact ⟨this.1, fun c h => ⟨(this.2 c h).1, fun e => (this.2 c h).2 (Option.some.inj e)⟩⟩

end Sys2Proof.Machine
end

