-- ==== Sys2Proof/Laws/State.lean ====
section
/-! SUPPORT. One lemma per field per update of State (Machine/Ops.lean, Machine/Operands.lean), all true by rfl, so that
no proof unfolds a record update. -/

namespace Sys2Proof.Machine

@[simp] theorem State.setA_a (b : Byte) (s : State) : (s.setA b).a = b := rfl
@[simp] theorem State.setA_x (b : Byte) (s : State) : (s.setA b).x = s.x := rfl
@[simp] theorem State.setA_y (b : Byte) (s : State) : (s.setA b).y = s.y := rfl
@[simp] theorem State.setA_pc (b : Byte) (s : State) : (s.setA b).pc = s.pc := rfl
@[simp] theorem State.setA_sp (b : Byte) (s : State) : (s.setA b).sp = s.sp := rfl
@[simp] theorem State.setA_p (b : Byte) (s : State) : (s.setA b).p = s.p := rfl
@[simp] theorem State.setA_cycles (b : Byte) (s : State) : (s.setA b).cycles = s.cycles := rfl
@[simp] theorem State.setA_stall (b : Byte) (s : State) : (s.setA b).stall = s.stall := rfl
@[simp] theorem State.setA_nmiPending (b : Byte) (s : State) : (s.setA b).nmiPending = s.nmiPending := rfl
@[simp] theorem State.setA_ram (b : Byte) (s : State) : (s.setA b).ram = s.ram := rfl
@[simp] theorem State.setA_ppu (b : Byte) (s : State) : (s.setA b).ppu = s.ppu := rfl
@[simp] theorem State.setA_env (b : Byte) (s : State) : (s.setA b).env = s.env := rfl

@[simp] theorem State.setX_a (b : Byte) (s : State) : (s.setX b).a = s.a := rfl
@[simp] theorem State.setX_x (b : Byte) (s : State) : (s.setX b).x = b := rfl
@[simp] theorem State.setX_y (b : Byte) (s : State) : (s.setX b).y = s.y := rfl
@[simp] theorem State.setX_pc (b : Byte) (s : State) : (s.setX b).pc = s.pc := rfl
@[simp] theorem State.setX_sp (b : Byte) (s : State) : (s.setX b).sp = s.sp := rfl
@[simp] theorem State.setX_p (b : Byte) (s : State) : (s.setX b).p = s.p := rfl
@[simp] theorem State.setX_cycles (b : Byte) (s : State) : (s.setX b).cycles = s.cycles := rfl
@[simp] theorem State.setX_stall (b : Byte) (s : State) : (s.setX b).stall = s.stall := rfl
@[simp] theorem State.setX_nmiPending (b : Byte) (s : State) : (s.setX b).nmiPending = s.nmiPending := rfl
@[simp] theorem State.setX_ram (b : Byte) (s : State) : (s.setX b).ram = s.ram := rfl
@[simp] theorem State.setX_ppu (b : Byte) (s : State) : (s.setX b).ppu = s.ppu := rfl
@[simp] theorem State.setX_env (b : Byte) (s : State) : (s.setX b).env = s.env := rfl

@[simp] theorem State.setY_a (b : Byte) (s : State) : (s.setY b).a = s.a := rfl
@[simp] theorem State.setY_x (b : Byte) (s : State) : (s.setY b).x = s.x := rfl
@[simp] theorem State.setY_y (b : Byte) (s : State) : (s.setY b).y = b := rfl
@[simp] theorem State.setY_pc (b : Byte) (s : State) : (s.setY b).pc = s.pc := rfl
@[simp] theorem State.setY_sp (b : Byte) (s : State) : (s.setY b).sp = s.sp := rfl
@[simp] theorem State.setY_p (b : Byte) (s : State) : (s.setY b).p = s.p := rfl
@[simp] theorem State.setY_cycles (b : Byte) (s : State) : (s.setY b).cycles = s.cycles := rfl
@[simp] theorem State.setY_stall (b : Byte) (s : State) : (s.setY b).stall = s.stall := rfl
@[simp] theorem State.setY_nmiPending (b : Byte) (s : State) : (s.setY b).nmiPending = s.nmiPending := rfl
@[simp] theorem State.setY_ram (b : Byte) (s : State) : (s.setY b).ram = s.ram := rfl
@[simp] theorem State.setY_ppu (b : Byte) (s : State) : (s.setY b).ppu = s.ppu := rfl
@[simp] theorem State.setY_env (b : Byte) (s : State) : (s.setY b).env = s.env := rfl

@[simp] theorem State.setPC_a (w : Addr) (s : State) : (s.setPC w).a = s.a := rfl
@[simp] theorem State.setPC_x (w : Addr) (s : State) : (s.setPC w).x = s.x := rfl
@[simp] theorem State.setPC_y (w : Addr) (s : State) : (s.setPC w).y = s.y := rfl
@[simp] theorem State.setPC_pc (w : Addr) (s : State) : (s.setPC w).pc = w := rfl
@[simp] theorem State.setPC_sp (w : Addr) (s : State) : (s.setPC w).sp = s.sp := rfl
@[simp] theorem State.setPC_p (w : Addr) (s : State) : (s.setPC w).p = s.p := rfl
@[simp] theorem State.setPC_cycles (w : Addr) (s : State) : (s.setPC w).cycles = s.cycles := rfl
@[simp] theorem State.setPC_stall (w : Addr) (s : State) : (s.setPC w).stall = s.stall := rfl
@[simp] theorem State.setPC_nmiPending (w : Addr) (s : State) : (s.setPC w).nmiPending = s.nmiPending := rfl
@[simp] theorem State.setPC_ram (w : Addr) (s : State) : (s.setPC w).ram = s.ram := rfl
@[simp] theorem State.setPC_ppu (w : Addr) (s : State) : (s.setPC w).ppu = s.ppu := rfl
@[simp] theorem State.setPC_env (w : Addr) (s : State) : (s.setPC w).env = s.env := rfl

@[simp] theorem State.setSP_a (b : Byte) (s : State) : (s.setSP b).a = s.a := rfl
@[simp] theorem State.setSP_x (b : Byte) (s : State) : (s.setSP b).x = s.x := rfl
@[simp] theorem State.setSP_y (b : Byte) (s : State) : (s.setSP b).y = s.y := rfl
@[simp] theorem State.setSP_pc (b : Byte) (s : State) : (s.setSP b).pc = s.pc := rfl
@[simp] theorem State.setSP_sp (b : Byte) (s : State) : (s.setSP b).sp = b := rfl
@[simp] theorem State.setSP_p (b : Byte) (s : State) : (s.setSP b).p = s.p := rfl
@[simp] theorem State.setSP_cycles (b : Byte) (s : State) : (s.setSP b).cycles = s.cycles := rfl
@[simp] theorem State.setSP_stall (b : Byte) (s : State) : (s.setSP b).stall = s.stall := rfl
@[simp] theorem State.setSP_nmiPending (b : Byte) (s : State) : (s.setSP b).nmiPending = s.nmiPending := rfl
@[simp] theorem State.setSP_ram (b : Byte) (s : State) : (s.setSP b).ram = s.ram := rfl
@[simp] theorem State.setSP_ppu (b : Byte) (s : State) : (s.setSP b).ppu = s.ppu := rfl
@[simp] theorem State.setSP_env (b : Byte) (s : State) : (s.setSP b).env = s.env := rfl

@[simp] theorem State.setP_a (b : Byte) (s : State) : (s.setP b).a = s.a := rfl
@[simp] theorem State.setP_x (b : Byte) (s : State) : (s.setP b).x = s.x := rfl
@[simp] theorem State.setP_y (b : Byte) (s : State) : (s.setP b).y = s.y := rfl
@[simp] theorem State.setP_pc (b : Byte) (s : State) : (s.setP b).pc = s.pc := rfl
@[simp] theorem State.setP_sp (b : Byte) (s : State) : (s.setP b).sp = s.sp := rfl
@[simp] theorem State.setP_p (b : Byte) (s : State) : (s.setP b).p = b := rfl
@[simp] theorem State.setP_cycles (b : Byte) (s : State) : (s.setP b).cycles = s.cycles := rfl
@[simp] theorem State.setP_stall (b : Byte) (s : State) : (s.setP b).stall = s.stall := rfl
@[simp] theorem State.setP_nmiPending (b : Byte) (s : State) : (s.setP b).nmiPending = s.nmiPending := rfl
@[simp] theorem State.setP_ram (b : Byte) (s : State) : (s.setP b).ram = s.ram := rfl
@[simp] theorem State.setP_ppu (b : Byte) (s : State) : (s.setP b).ppu = s.ppu := rfl
@[simp] theorem State.setP_env (b : Byte) (s : State) : (s.setP b).env = s.env := rfl

@[simp] theorem State.addCycles_a (n : Nat) (s : State) : (s.addCycles n).a = s.a := rfl
@[simp] theorem State.addCycles_x (n : Nat) (s : State) : (s.addCycles n).x = s.x := rfl
@[simp] theorem State.addCycles_y (n : Nat) (s : State) : (s.addCycles n).y = s.y := rfl
@[simp] theorem State.addCycles_pc (n : Nat) (s : State) : (s.addCycles n).pc = s.pc := rfl
@[simp] theorem State.addCycles_sp (n : Nat) (s : State) : (s.addCycles n).sp = s.sp := rfl
@[simp] theorem State.addCycles_p (n : Nat) (s : State) : (s.addCycles n).p = s.p := rfl
@[simp] theorem State.addCycles_cycles (n : Nat) (s : State) : (s.addCycles n).cycles = s.cycles + n := rfl
@[simp] theorem State.addCycles_stall (n : Nat) (s : State) : (s.addCycles n).stall = s.stall := rfl
@[simp] theorem State.addCycles_nmiPending (n : Nat) (s : State) : (s.addCycles n).nmiPending = s.nmiPending := rfl
@[simp] theorem State.addCycles_ram (n : Nat) (s : State) : (s.addCycles n).ram = s.ram := rfl
@[simp] theorem State.addCycles_ppu (n : Nat) (s : State) : (s.addCycles n).ppu = s.ppu := rfl
@[simp] theorem State.addCycles_env (n : Nat) (s : State) : (s.addCycles n).env = s.env := rfl

@[simp] theorem State.setStall_a (n : Nat) (s : State) : (s.setStall n).a = s.a := rfl
@[simp] theorem State.setStall_x (n : Nat) (s : State) : (s.setStall n).x = s.x := rfl
@[simp] theorem State.setStall_y (n : Nat) (s : State) : (s.setStall n).y = s.y := rfl
@[simp] theorem State.setStall_pc (n : Nat) (s : State) : (s.setStall n).pc = s.pc := rfl
@[simp] theorem State.setStall_sp (n : Nat) (s : State) : (s.setStall n).sp = s.sp := rfl
@[simp] theorem State.setStall_p (n : Nat) (s : State) : (s.setStall n).p = s.p := rfl
@[simp] theorem State.setStall_cycles (n : Nat) (s : State) : (s.setStall n).cycles = s.cycles := rfl
@[simp] theorem State.setStall_stall (n : Nat) (s : State) : (s.setStall n).stall = n := rfl
@[simp] theorem State.setStall_nmiPending (n : Nat) (s : State) : (s.setStall n).nmiPending = s.nmiPending := rfl
@[simp] theorem State.setStall_ram (n : Nat) (s : State) : (s.setStall n).ram = s.ram := rfl
@[simp] theorem State.setStall_ppu (n : Nat) (s : State) : (s.setStall n).ppu = s.ppu := rfl
@[simp] theorem State.setStall_env (n : Nat) (s : State) : (s.setStall n).env = s.env := rfl

@[simp] theorem State.setNmiPending_a (b : Bool) (s : State) : (s.setNmiPending b).a = s.a := rfl
@[simp] theorem State.setNmiPending_x (b : Bool) (s : State) : (s.setNmiPending b).x = s.x := rfl
@[simp] theorem State.setNmiPending_y (b : Bool) (s : State) : (s.setNmiPending b).y = s.y := rfl
@[simp] theorem State.setNmiPending_pc (b : Bool) (s : State) : (s.setNmiPending b).pc = s.pc := rfl
@[simp] theorem State.setNmiPending_sp (b : Bool) (s : State) : (s.setNmiPending b).sp = s.sp := rfl
@[simp] theorem State.setNmiPending_p (b : Bool) (s : State) : (s.setNmiPending b).p = s.p := rfl
@[simp] theorem State.setNmiPending_cycles (b : Bool) (s : State) : (s.setNmiPending b).cycles = s.cycles := rfl
@[simp] theorem State.setNmiPending_stall (b : Bool) (s : State) : (s.setNmiPending b).stall = s.stall := rfl
@[simp] theorem State.setNmiPending_nmiPending (b : Bool) (s : State) : (s.setNmiPending b).nmiPending = b := rfl
@[simp] theorem State.setNmiPending_ram (b : Bool) (s : State) : (s.setNmiPending b).ram = s.ram := rfl
@[simp] theorem State.setNmiPending_ppu (b : Bool) (s : State) : (s.setNmiPending b).ppu = s.ppu := rfl
@[simp] theorem State.setNmiPending_env (b : Bool) (s : State) : (s.setNmiPending b).env = s.env := rfl

@[simp] theorem State.setRam_a (m : Memory) (s : State) : (s.setRam m).a = s.a := rfl
@[simp] theorem State.setRam_x (m : Memory) (s : State) : (s.setRam m).x = s.x := rfl
@[simp] theorem State.setRam_y (m : Memory) (s : State) : (s.setRam m).y = s.y := rfl
@[simp] theorem State.setRam_pc (m : Memory) (s : State) : (s.setRam m).pc = s.pc := rfl
@[simp] theorem State.setRam_sp (m : Memory) (s : State) : (s.setRam m).sp = s.sp := rfl
@[simp] theorem State.setRam_p (m : Memory) (s : State) : (s.setRam m).p = s.p := rfl
@[simp] theorem State.setRam_cycles (m : Memory) (s : State) : (s.setRam m).cycles = s.cycles := rfl
@[simp] theorem State.setRam_stall (m : Memory) (s : State) : (s.setRam m).stall = s.stall := rfl
@[simp] theorem State.setRam_nmiPending (m : Memory) (s : State) : (s.setRam m).nmiPending = s.nmiPending := rfl
@[simp] theorem State.setRam_ram (m : Memory) (s : State) : (s.setRam m).ram = m := rfl
@[simp] theorem State.setRam_ppu (m : Memory) (s : State) : (s.setRam m).ppu = s.ppu := rfl
@[simp] theorem State.setRam_env (m : Memory) (s : State) : (s.setRam m).env = s.env := rfl

@[simp] theorem State.setVideo_a (g : Video) (s : State) : (s.setVideo g).a = s.a := rfl
@[simp] theorem State.setVideo_x (g : Video) (s : State) : (s.setVideo g).x = s.x := rfl
@[simp] theorem State.setVideo_y (g : Video) (s : State) : (s.setVideo g).y = s.y := rfl
@[simp] theorem State.setVideo_pc (g : Video) (s : State) : (s.setVideo g).pc = s.pc := rfl
@[simp] theorem State.setVideo_sp (g : Video) (s : State) : (s.setVideo g).sp = s.sp := rfl
@[simp] theorem State.setVideo_p (g : Video) (s : State) : (s.setVideo g).p = s.p := rfl
@[simp] theorem State.setVideo_cycles (g : Video) (s : State) : (s.setVideo g).cycles = s.cycles := rfl
@[simp] theorem State.setVideo_stall (g : Video) (s : State) : (s.setVideo g).stall = s.stall := rfl
@[simp] theorem State.setVideo_nmiPending (g : Video) (s : State) : (s.setVideo g).nmiPending = s.nmiPending := rfl
@[simp] theorem State.setVideo_ram (g : Video) (s : State) : (s.setVideo g).ram = s.ram := rfl
@[simp] theorem State.setVideo_ppu (g : Video) (s : State) : (s.setVideo g).ppu = g.ppu := rfl
@[simp] theorem State.setVideo_env (g : Video) (s : State) : (s.setVideo g).env = g.env := rfl

@[simp] theorem State.setEnv_a (e : Env) (s : State) : (s.setEnv e).a = s.a := rfl
@[simp] theorem State.setEnv_x (e : Env) (s : State) : (s.setEnv e).x = s.x := rfl
@[simp] theorem State.setEnv_y (e : Env) (s : State) : (s.setEnv e).y = s.y := rfl
@[simp] theorem State.setEnv_pc (e : Env) (s : State) : (s.setEnv e).pc = s.pc := rfl
@[simp] theorem State.setEnv_sp (e : Env) (s : State) : (s.setEnv e).sp = s.sp := rfl
@[simp] theorem State.setEnv_p (e : Env) (s : State) : (s.setEnv e).p = s.p := rfl
@[simp] theorem State.setEnv_cycles (e : Env) (s : State) : (s.setEnv e).cycles = s.cycles := rfl
@[simp] theorem State.setEnv_stall (e : Env) (s : State) : (s.setEnv e).stall = s.stall := rfl
@[simp] theorem State.setEnv_nmiPending (e : Env) (s : State) : (s.setEnv e).nmiPending = s.nmiPending := rfl
@[simp] theorem State.setEnv_ram (e : Env) (s : State) : (s.setEnv e).ram = s.ram := rfl
@[simp] theorem State.setEnv_ppu (e : Env) (s : State) : (s.setEnv e).ppu = s.ppu := rfl
@[simp] theorem State.setEnv_env (e : Env) (s : State) : (s.setEnv e).env = e := rfl

@[simp] theorem State.setZN_a (b : Byte) (s : State) : (s.setZN b).a = s.a := rfl
@[simp] theorem State.setZN_x (b : Byte) (s : State) : (s.setZN b).x = s.x := rfl
@[simp] theorem State.setZN_y (b : Byte) (s : State) : (s.setZN b).y = s.y := rfl
@[simp] theorem State.setZN_pc (b : Byte) (s : State) : (s.setZN b).pc = s.pc := rfl
@[simp] theorem State.setZN_sp (b : Byte) (s : State) : (s.setZN b).sp = s.sp := rfl
@[simp] theorem State.setZN_p (b : Byte) (s : State) : (s.setZN b).p = Machine.setZN b s.p := rfl
@[simp] theorem State.setZN_cycles (b : Byte) (s : State) : (s.setZN b).cycles = s.cycles := rfl
@[simp] theorem State.setZN_stall (b : Byte) (s : State) : (s.setZN b).stall = s.stall := rfl
@[simp] theorem State.setZN_nmiPending (b : Byte) (s : State) : (s.setZN b).nmiPending = s.nmiPending := rfl
@[simp] theorem State.setZN_ram (b : Byte) (s : State) : (s.setZN b).ram = s.ram := rfl
@[simp] theorem State.setZN_ppu (b : Byte) (s : State) : (s.setZN b).ppu = s.ppu := rfl
@[simp] theorem State.setZN_env (b : Byte) (s : State) : (s.setZN b).env = s.env := rfl

@[simp] theorem State.start_a (len cost : Nat) (s : State) : (s.start len cost).a = s.a := rfl
@[simp] theorem State.start_x (len cost : Nat) (s : State) : (s.start len cost).x = s.x := rfl
@[simp] theorem State.start_y (len cost : Nat) (s : State) : (s.start len cost).y = s.y := rfl
@[simp] theorem State.start_pc (len cost : Nat) (s : State) : (s.start len cost).pc = s.pc + BitVec.ofNat 16 len := rfl
@[simp] theorem State.start_sp (len cost : Nat) (s : State) : (s.start len cost).sp = s.sp := rfl
@[simp] theorem State.start_p (len cost : Nat) (s : State) : (s.start len cost).p = s.p := rfl
@[simp] theorem State.start_cycles (len cost : Nat) (s : State) : (s.start len cost).cycles = s.cycles + cost := rfl
@[simp] theorem State.start_stall (len cost : Nat) (s : State) : (s.start len cost).stall = s.stall := rfl
@[simp] theorem State.start_nmiPending (len cost : Nat) (s : State) : (s.start len cost).nmiPending = s.nmiPending := rfl
@[simp] theorem State.start_ram (len cost : Nat) (s : State) : (s.start len cost).ram = s.ram := rfl
@[simp] theorem State.start_ppu (len cost : Nat) (s : State) : (s.start len cost).ppu = s.ppu := rfl
@[simp] theorem State.start_env (len cost : Nat) (s : State) : (s.start len cost).env = s.env := rfl

@[simp] theorem State.video_ppu (s : State) : s.video.ppu = s.ppu := rfl
@[simp] theorem State.video_env (s : State) : s.video.env = s.env := rfl
@[simp] theorem State.setVideo_video (g : Video) (s : State) : (s.setVideo g).video = g := rfl
@[simp] theorem State.setVideo_self (s : State) : s.setVideo s.video = s := rfl
@[simp] theorem State.setVideo_setVideo (g h : Video) (s : State) : (s.setVideo g).setVideo h = s.setVideo h := rfl

end Sys2Proof.Machine
end

