-- ==== Sys2Proof/Laws/Bus.lean ====
section
/-! SUPPORT. What a bus access, a DMA, a push and a pull can change: one lemma per operation and field, and the exact
result where the address is known to be RAM. -/

namespace Sys2Proof.Machine

/-- A read of the bus leaves every register of the CPU and RAM alone: it answers its state with another PPU and
environment. -/
theorem memRead_eq (a : Addr) (s : State) : ∃ g, (memRead a s).2 = s.setVideo g := by
  unfold memRead
  split
  · exact ⟨s.video, rfl⟩
  · split
    · exact ⟨_, rfl⟩
    · split
      · exact ⟨s.video, rfl⟩
      · split <;> exact ⟨{ s.video with env := _ }, rfl⟩

@[simp] theorem memRead_a (a : Addr) (s : State) : (memRead a s).2.a = s.a := by
  obtain ⟨g, h⟩ := memRead_eq a s
  simp [h]

@[simp] theorem memRead_x (a : Addr) (s : State) : (memRead a s).2.x = s.x := by
  obtain ⟨g, h⟩ := memRead_eq a s
  simp [h]

@[simp] theorem memRead_y (a : Addr) (s : State) : (memRead a s).2.y = s.y := by
  obtain ⟨g, h⟩ := memRead_eq a s
  simp [h]

@[simp] theorem memRead_pc (a : Addr) (s : State) : (memRead a s).2.pc = s.pc := by
  obtain ⟨g, h⟩ := memRead_eq a s
  simp [h]

@[simp] theorem memRead_sp (a : Addr) (s : State) : (memRead a s).2.sp = s.sp := by
  obtain ⟨g, h⟩ := memRead_eq a s
  simp [h]

@[simp] theorem memRead_p (a : Addr) (s : State) : (memRead a s).2.p = s.p := by
  obtain ⟨g, h⟩ := memRead_eq a s
  simp [h]

@[simp] theorem memRead_cycles (a : Addr) (s : State) : (memRead a s).2.cycles = s.cycles := by
  obtain ⟨g, h⟩ := memRead_eq a s
  simp [h]

@[simp] theorem memRead_stall (a : Addr) (s : State) : (memRead a s).2.stall = s.stall := by
  obtain ⟨g, h⟩ := memRead_eq a s
  simp [h]

@[simp] theorem memRead_nmiPending (a : Addr) (s : State) : (memRead a s).2.nmiPending = s.nmiPending := by
  obtain ⟨g, h⟩ := memRead_eq a s
  simp [h]

@[simp] theorem memRead_ram (a : Addr) (s : State) : (memRead a s).2.ram = s.ram := by
  obtain ⟨g, h⟩ := memRead_eq a s
  simp [h]

/-- A read of RAM answers the byte and changes nothing (R54, R68). -/
theorem memRead_of_ram {a : Addr} (h : a < 0x2000) (s : State) : memRead a s = (s.ramByte a, s) := if_pos h

theorem zext16_lt (b : Byte) : zext16 b < 0x2000 := by
  have := b.isLt
  simp [zext16, BitVec.lt_def]
  omega

theorem stackAddress_toNat (sp : Byte) : (stackAddress sp).toNat = 256 + sp.toNat := by
  have h : (stackAddress sp).toNat = 1 <<< 8 ||| sp.toNat := BitVec.toNat_append 1#8 sp
  rw [h, ← Nat.shiftLeft_add_eq_or_of_lt sp.isLt, Nat.shiftLeft_eq]

theorem stackAddress_lt (sp : Byte) : stackAddress sp < 0x2000 := by
  have := sp.isLt
  simp [BitVec.lt_def, stackAddress_toNat]
  omega

/-- Zero-page pointers read RAM alone. -/
theorem read16ZP_eq (z : Byte) (s : State) :
    read16ZP z s = word16 (s.ramByte (zext16 (z + 1))) (s.ramByte (zext16 z)) := by
  simp [read16ZP, memRead_of_ram (zext16_lt _)]

/-- A write of RAM (R53, R54). -/
theorem memWrite_ram {a : Addr} (h : a < 0x2000) (b : Byte) (s : State) :
    memWrite a b s = s.setRam (s.ram.write (ramIndex a) b) := if_pos h

theorem push_eq (b : Byte) (s : State) :
    push b s = (s.setRam (s.ram.write (ramIndex (stackAddress s.sp)) b)).setSP (s.sp - 1) := by
  simp [push, memWrite_ram (stackAddress_lt _)]

theorem pull_eq (s : State) : pull s = (s.ramByte (stackAddress (s.sp + 1)), s.setSP (s.sp + 1)) := by
  simp [pull, memRead_of_ram (stackAddress_lt _), State.ramByte]

/-- The vectors lie in the cartridge's space (R61, R77). -/
theorem memRead_cart {a : Addr} (h : 0x4020 ≤ a) (s : State) :
    memRead a s = ((cartCpuRead a s.env).1, s.setEnv (cartCpuRead a s.env).2) := by
  have h' : 0x4020 ≤ a.toNat := by simpa [BitVec.le_def] using h
  have h1 : ¬ a < 0x2000 := by simp [BitVec.lt_def]; omega
  have h2 : ¬ a < 0x4000 := by simp [BitVec.lt_def]; omega
  have h3 : ¬ a = 0x4014 := by rintro rfl; exact absurd h' (by decide)
  have h4 : ¬ a < 0x4020 := by simp [BitVec.lt_def]; omega
  rw [memRead, if_neg h1, if_neg h2, if_neg h3, if_neg h4]

/-- A vector is two reads of the cartridge, low byte first (R56, R77). -/
theorem read16_cart {a : Addr} (h : 0x4020 ≤ a) (h1 : 0x4020 ≤ a + 1) (s : State) :
    read16 a s =
      (word16 (cartCpuRead (a + 1) (cartCpuRead a s.env).2).1 (cartCpuRead a s.env).1,
       s.setEnv (cartCpuRead (a + 1) (cartCpuRead a s.env).2).2) := by
  simp only [read16, memRead_cart h, memRead_cart h1]
  rfl

theorem read16_vecReset (s : State) :
    read16 Config.vecReset s =
      (word16 (cartCpuRead 0xFFFD (cartCpuRead 0xFFFC s.env).2).1 (cartCpuRead 0xFFFC s.env).1,
       s.setEnv (cartCpuRead 0xFFFD (cartCpuRead 0xFFFC s.env).2).2) := read16_cart (by decide) (by decide) s

theorem read16_vecNmi (s : State) :
    read16 Config.vecNmi s =
      (word16 (cartCpuRead 0xFFFB (cartCpuRead 0xFFFA s.env).2).1 (cartCpuRead 0xFFFA s.env).1,
       s.setEnv (cartCpuRead 0xFFFB (cartCpuRead 0xFFFA s.env).2).2) := read16_cart (by decide) (by decide) s

theorem read16_vecIrq (s : State) :
    read16 Config.vecIrq s =
      (word16 (cartCpuRead 0xFFFF (cartCpuRead 0xFFFE s.env).2).1 (cartCpuRead 0xFFFE s.env).1,
       s.setEnv (cartCpuRead 0xFFFF (cartCpuRead 0xFFFE s.env).2).2) := read16_cart (by decide) (by decide) s

/-- A copy of OAM DMA answers its state with another PPU and environment. -/
theorem dmaCopy_eq (page : Byte) (n i : Nat) (s : State) : ∃ g, dmaCopy page n i s = s.setVideo g := by
  induction n generalizing i s with
  | zero => exact ⟨s.video, rfl⟩
  | succ n ih =>
    obtain ⟨g, h⟩ := memRead_eq (word16 page (BitVec.ofNat 8 i)) s
    obtain ⟨k, hk⟩ := ih (i + 1) (dmaByte page s i)
    exact ⟨k, by rw [dmaCopy, hk, dmaByte, h]; rfl⟩

theorem oamDma_eq (page : Byte) (s : State) :
    ∃ g, oamDma page s = (s.setVideo g).setStall (s.stall + Config.dmaStall + s.cycles % 2) := by
  obtain ⟨g, h⟩ := dmaCopy_eq page 256 0 s
  exact ⟨g, by simp [oamDma, h]⟩

/-- A write of the bus changes no register of the CPU but `stall`. -/
theorem memWrite_eq (a : Addr) (b : Byte) (s : State) :
    ∃ m g n, memWrite a b s = ((s.setRam m).setVideo g).setStall n := by
  unfold memWrite
  split
  · exact ⟨s.ram.write (ramIndex a) b, s.video, s.stall, rfl⟩
  · split
    · exact ⟨s.ram, portWrite (portNumber a) b s.video, s.stall, rfl⟩
    · split
      · obtain ⟨g, h⟩ := oamDma_eq b s
        exact ⟨s.ram, g, _, h⟩
      · split
        · exact ⟨s.ram, ⟨s.ppu, ioWrite a b s.env⟩, s.stall, rfl⟩
        · exact ⟨s.ram, ⟨s.ppu, cartCpuWrite a b s.env⟩, s.stall, rfl⟩

@[simp] theorem memWrite_a (a : Addr) (b : Byte) (s : State) : (memWrite a b s).a = s.a := by
  obtain ⟨m, g, n, h⟩ := memWrite_eq a b s
  simp [h]

@[simp] theorem memWrite_x (a : Addr) (b : Byte) (s : State) : (memWrite a b s).x = s.x := by
  obtain ⟨m, g, n, h⟩ := memWrite_eq a b s
  simp [h]

@[simp] theorem memWrite_y (a : Addr) (b : Byte) (s : State) : (memWrite a b s).y = s.y := by
  obtain ⟨m, g, n, h⟩ := memWrite_eq a b s
  simp [h]

@[simp] theorem memWrite_pc (a : Addr) (b : Byte) (s : State) : (memWrite a b s).pc = s.pc := by
  obtain ⟨m, g, n, h⟩ := memWrite_eq a b s
  simp [h]

@[simp] theorem memWrite_sp (a : Addr) (b : Byte) (s : State) : (memWrite a b s).sp = s.sp := by
  obtain ⟨m, g, n, h⟩ := memWrite_eq a b s
  simp [h]

@[simp] theorem memWrite_p (a : Addr) (b : Byte) (s : State) : (memWrite a b s).p = s.p := by
  obtain ⟨m, g, n, h⟩ := memWrite_eq a b s
  simp [h]

@[simp] theorem memWrite_cycles (a : Addr) (b : Byte) (s : State) : (memWrite a b s).cycles = s.cycles := by
  obtain ⟨m, g, n, h⟩ := memWrite_eq a b s
  simp [h]

@[simp] theorem memWrite_nmiPending (a : Addr) (b : Byte) (s : State) : (memWrite a b s).nmiPending = s.nmiPending := by
  obtain ⟨m, g, n, h⟩ := memWrite_eq a b s
  simp [h]

end Sys2Proof.Machine
end

