-- ==== Sys2Proof/Laws/Ports.lean ====
section
/-! SUPPORT. What the PPU bus and the ports can change. -/

namespace Sys2Proof.Machine

/-- A read of the PPU bus changes the environment's hidden state at most (R70). -/
theorem ppuRead_env (a : Addr) (p : Ppu) (e : Env) : ∃ t, (ppuRead a p e).2 = { e with token := t } := by
  unfold ppuRead
  dsimp only
  split
  · exact ⟨_, rfl⟩
  · split <;> exact ⟨e.token, rfl⟩

/-- A port read changes `nmi_occurred`, `nmi_prev`, `w`, `v` and `buffered_data` at most (R68, R237). -/
theorem portRead_eq (n : Nat) (g : Video) :
    ∃ (occurred prev toggle : Bool) (v : BitVec 15) (buffer : Byte) (token : Nat),
      (portRead n g).2 =
        { ppu :=
            { g.ppu with nmiOccurred := occurred, nmiPrev := prev, w := toggle, v := v, bufferedData := buffer }
          env := { g.env with token := token } } := by
  unfold portRead
  split
  · exact ⟨false, false, false, g.ppu.v, g.ppu.bufferedData, g.env.token, by
      simp [readStatus, nmiChange, Ppu.nmiLevel]⟩
  · exact ⟨g.ppu.nmiOccurred, g.ppu.nmiPrev, g.ppu.w, g.ppu.v, g.ppu.bufferedData, g.env.token, rfl⟩
  · obtain ⟨t, ht⟩ := ppuRead_env (g.ppu.v.setWidth 16) g.ppu g.env
    obtain ⟨u, hu⟩ := ppuRead_env ((g.ppu.v - 0x1000).setWidth 16) g.ppu { g.env with token := t }
    unfold readData
    split
    · exact ⟨g.ppu.nmiOccurred, g.ppu.nmiPrev, g.ppu.w, (incrementV g.ppu).v,
        (ppuRead (g.ppu.v.setWidth 16) g.ppu g.env).1, t, by simp only [ht, incrementV]⟩
    · exact ⟨g.ppu.nmiOccurred, g.ppu.nmiPrev, g.ppu.w, (incrementV g.ppu).v,
        (ppuRead ((g.ppu.v - 0x1000).setWidth 16) g.ppu { g.env with token := t }).1, u, by
          simp only [ht, hu, incrementV]⟩
  · exact ⟨g.ppu.nmiOccurred, g.ppu.nmiPrev, g.ppu.w, g.ppu.v, g.ppu.bufferedData, g.env.token, rfl⟩

/-- The nametable's index is inside its 2048 bytes (R72). -/
theorem mirrorAddress_lt (mode : Mirroring) (a : Nat) : mirrorAddress mode a < 2048 := by
  cases mode <;> simp only [mirrorAddress, mirrorTable] <;> omega

/-- The palette's index is inside its 32 bytes, and never one of the folded four (R73, R74). -/
theorem paletteIndex_spec {i : Nat} (h : i < 32) :
    paletteIndex i < 32 ∧ paletteIndex i ≠ 16 ∧ paletteIndex i ≠ 20 ∧ paletteIndex i ≠ 24 ∧ paletteIndex i ≠ 28 := by
  unfold paletteIndex
  split <;> omega

/-- A write of the PPU bus stores one byte of the nametables or of the palette, or hands it to the cartridge (R71). -/
theorem ppuWrite_eq (a : Addr) (b : Byte) (g : Video) :
    ppuWrite a b g = { g with env := cartPpuWrite (a.toNat % 0x4000) b g.env } ∧ a.toNat % 0x4000 < 0x2000 ∨
    (∃ k, k < 2048 ∧ ppuWrite a b g = { g with ppu := { g.ppu with nametable := g.ppu.nametable.write k b } }) ∨
    ∃ k, k < 32 ∧ ppuWrite a b g = { g with ppu := { g.ppu with palette := g.ppu.palette.write (paletteIndex k) b } } := by
  simp only [ppuWrite]
  split
  · exact .inl ⟨rfl, by assumption⟩
  · split
    · exact .inr (.inl ⟨_, mirrorAddress_lt _ _, rfl⟩)
    · exact .inr (.inr ⟨_, by omega, rfl⟩)

end Sys2Proof.Machine
end

