-- ==== Sys2Proof/Laws/Dma.lean ====
section
/-! SUPPORT. What the copy of OAM DMA does, byte by byte (47_bus_scheduler_dma.md R315). -/

namespace Sys2Proof.Machine

/-- The PPU fields a read of the CPU bus can change (R68). -/
theorem memRead_ppu (a : Addr) (s : State) :
    ∃ (occurred prev toggle : Bool) (v : BitVec 15) (buffer : Byte),
      (memRead a s).2.ppu =
        { s.ppu with nmiOccurred := occurred, nmiPrev := prev, w := toggle, v := v, bufferedData := buffer } := by
  unfold memRead
  split
  · exact ⟨s.ppu.nmiOccurred, s.ppu.nmiPrev, s.ppu.w, s.ppu.v, s.ppu.bufferedData, rfl⟩
  · split
    · obtain ⟨o, p, w, v, b, t, h⟩ := portRead_eq (portNumber a) s.video
      exact ⟨o, p, w, v, b, by simp [State.setVideo, h]⟩
    · repeat' split
      all_goals exact ⟨s.ppu.nmiOccurred, s.ppu.nmiPrev, s.ppu.w, s.ppu.v, s.ppu.bufferedData, rfl⟩

/-- One byte of the copy: the byte read is stored at the OAM cursor, and the cursor moves on. -/
theorem dmaByte_oam (page : Byte) (s : State) (i : Nat) :
    (dmaByte page s i).ppu.oamAddr = s.ppu.oamAddr + 1 ∧
    (dmaByte page s i).ppu.oam =
      s.ppu.oam.write s.ppu.oamAddr.toNat (memRead (word16 page (BitVec.ofNat 8 i)) s).1 ∧
    (dmaByte page s i).ppu.ioLatch = s.ppu.ioLatch ∧
    (dmaByte page s i).ppu.palette = s.ppu.palette ∧
    (dmaByte page s i).ppu.nametable = s.ppu.nametable := by
  obtain ⟨o, p, w, v, b, h⟩ := memRead_ppu (word16 page (BitVec.ofNat 8 i)) s
  simp [dmaByte, writeOamData, h]

/-- The copy of `n + 1` bytes ends with its last byte. -/
theorem dmaCopy_last (page : Byte) (n i : Nat) (s : State) :
    dmaCopy page (n + 1) i s = dmaByte page (dmaCopy page n i s) (i + n) := by
  induction n generalizing i s with
  | zero => rfl
  | succ n ih => rw [dmaCopy, ih]; simp [dmaCopy, Nat.add_comm, Nat.add_left_comm]

/-- The address of byte `i` of a page. -/
theorem pageByte_address (page : Byte) (i : Nat) (h : i < 256) :
    BitVec.ofNat 16 (page.toNat * 256 + i) = word16 page (BitVec.ofNat 8 i) := by
  apply BitVec.eq_of_toNat_eq
  have h2 : (word16 page (BitVec.ofNat 8 i)).toNat = page.toNat <<< 8 ||| (BitVec.ofNat 8 i).toNat :=
    BitVec.toNat_append _ _
  rw [h2, ← Nat.shiftLeft_add_eq_or_of_lt (BitVec.isLt _), Nat.shiftLeft_eq]
  have := page.isLt
  simp
  omega

end Sys2Proof.Machine
end

