-- ==== Sys2Proof/Laws/Flags.lean ====
section
/-! SUPPORT. What each flag computation leaves in the status byte: one lemma for the setting of one bit, and the meaning
of `SetZN` in the terms of Safety.lean. -/

namespace Sys2Proof.Machine

/-- Setting bit `i` changes bit `i` alone. -/
theorem getLsbD_putBit {i : Nat} (hi : i < 8) (b : Bool) (p : Byte) (j : Nat) :
    (putBit i b p).getLsbD j = if j = i then b else p.getLsbD j := by
  have h1 : (1#8 <<< i).getLsbD j = decide (j = i) := by
    rw [BitVec.getLsbD_shiftLeft, BitVec.getLsbD_one]
    by_cases h : j = i
    · subst h; simp [hi]
    · simp only [h, decide_false, Bool.and_eq_false_iff]
      by_cases h' : j < i
      · simp [h']
      · right; right; simp; omega
  by_cases h : j = i
  · subst h
    cases b <;> simp only [putBit, if_true, if_false, Bool.false_eq_true, BitVec.getLsbD_or, BitVec.getLsbD_and,
      BitVec.getLsbD_not, h1] <;> simp
  · cases b <;> simp only [putBit, if_true, if_false, Bool.false_eq_true, BitVec.getLsbD_or, BitVec.getLsbD_and,
      BitVec.getLsbD_not, h1, h, decide_false] <;> simp
    exact fun hp => BitVec.lt_of_getLsbD hp

theorem statusIs_setZN (v p q : Byte) (n' v' d' i' z' c' : Bool) (h : statusIs p q n' v' d' i' z' c') :
    statusIs p (setZN v q) (v.getLsbD 7) v' d' i' (v == 0) c' := by
  obtain ⟨h1, h2, h3, h4, h5, h6, h7, h8⟩ := h
  simp only [statusIs, flagN, flagV, flagD, flagI, flagZ, flagC, setZN, putN, putZ] at *
  refine ⟨?_, ?_, ?_, ?_, ?_, ?_, ?_, ?_⟩ <;>
    (repeat rw [getLsbD_putBit (by decide)]) <;> simp_all

theorem statusIs_putC (p q : Byte) (b n' v' d' i' z' c' : Bool) (h : statusIs p q n' v' d' i' z' c') :
    statusIs p (putC b q) n' v' d' i' z' b := by
  obtain ⟨h1, h2, h3, h4, h5, h6, h7, h8⟩ := h
  simp only [statusIs, flagN, flagV, flagD, flagI, flagZ, flagC, putC] at *
  refine ⟨?_, ?_, ?_, ?_, ?_, ?_, ?_, ?_⟩ <;>
    (repeat rw [getLsbD_putBit (by decide)]) <;> simp_all

theorem statusIs_putV (p q : Byte) (b n' v' d' i' z' c' : Bool) (h : statusIs p q n' v' d' i' z' c') :
    statusIs p (putV b q) n' b d' i' z' c' := by
  obtain ⟨h1, h2, h3, h4, h5, h6, h7, h8⟩ := h
  simp only [statusIs, flagN, flagV, flagD, flagI, flagZ, flagC, putV] at *
  refine ⟨?_, ?_, ?_, ?_, ?_, ?_, ?_, ?_⟩ <;>
    (repeat rw [getLsbD_putBit (by decide)]) <;> simp_all

theorem statusIs_putZ (p q : Byte) (b n' v' d' i' z' c' : Bool) (h : statusIs p q n' v' d' i' z' c') :
    statusIs p (putZ b q) n' v' d' i' b c' := by
  obtain ⟨h1, h2, h3, h4, h5, h6, h7, h8⟩ := h
  simp only [statusIs, flagN, flagV, flagD, flagI, flagZ, flagC, putZ] at *
  refine ⟨?_, ?_, ?_, ?_, ?_, ?_, ?_, ?_⟩ <;>
    (repeat rw [getLsbD_putBit (by decide)]) <;> simp_all

theorem statusIs_putN (p q : Byte) (b n' v' d' i' z' c' : Bool) (h : statusIs p q n' v' d' i' z' c') :
    statusIs p (putN b q) b v' d' i' z' c' := by
  obtain ⟨h1, h2, h3, h4, h5, h6, h7, h8⟩ := h
  simp only [statusIs, flagN, flagV, flagD, flagI, flagZ, flagC, putN] at *
  refine ⟨?_, ?_, ?_, ?_, ?_, ?_, ?_, ?_⟩ <;>
    (repeat rw [getLsbD_putBit (by decide)]) <;> simp_all

theorem statusIs_putI (p q : Byte) (b n' v' d' i' z' c' : Bool) (h : statusIs p q n' v' d' i' z' c') :
    statusIs p (putI b q) n' v' d' b z' c' := by
  obtain ⟨h1, h2, h3, h4, h5, h6, h7, h8⟩ := h
  simp only [statusIs, flagN, flagV, flagD, flagI, flagZ, flagC, putI] at *
  refine ⟨?_, ?_, ?_, ?_, ?_, ?_, ?_, ?_⟩ <;>
    (repeat rw [getLsbD_putBit (by decide)]) <;> simp_all

theorem statusIs_putD (p q : Byte) (b n' v' d' i' z' c' : Bool) (h : statusIs p q n' v' d' i' z' c') :
    statusIs p (putD b q) n' v' b i' z' c' := by
  obtain ⟨h1, h2, h3, h4, h5, h6, h7, h8⟩ := h
  simp only [statusIs, flagN, flagV, flagD, flagI, flagZ, flagC, putD] at *
  refine ⟨?_, ?_, ?_, ?_, ?_, ?_, ?_, ?_⟩ <;>
    (repeat rw [getLsbD_putBit (by decide)]) <;> simp_all

theorem statusIs_self (p : Byte) :
    statusIs p p (flagN p) (flagV p) (flagD p) (flagI p) (flagZ p) (flagC p) :=
  ⟨rfl, rfl, rfl, rfl, rfl, rfl, rfl, rfl⟩

/-- `SetZN` writes Z and N of its byte and nothing else (R7, R16). -/
theorem onlyZN_setZN (v p : Byte) : onlyZN p (setZN v p) v := statusIs_setZN _ _ _ _ _ _ _ _ _ (statusIs_self p)

/-- `SetZN` after the carry (R161 to R164). -/
theorem onlyZNC_setZN (v p : Byte) (c : Bool) : onlyZNC p (setZN v (putC c p)) v c :=
  statusIs_setZN _ _ _ _ _ _ _ _ _ (statusIs_putC _ _ _ _ _ _ _ _ _ (statusIs_self p))

end Sys2Proof.Machine
end

