-- ==== Sys2Proof/Laws/Keep.lean ====
section
/-! SUPPORT. One induction for every invariant of RAM, PPU and environment: what each bus access keeps, every
instruction and every CPU step keeps. -/

namespace Sys2Proof.Machine

/-- A property of RAM, PPU and environment, said of a state. -/
abbrev State.on (P : Memory → Ppu → Env → Prop) (s : State) : Prop := P s.ram s.ppu s.env

/-- Every read and every write of the CPU bus keeps the property. -/
structure BusKeeps (P : Memory → Ppu → Env → Prop) : Prop where
  read : ∀ (a : Addr) (s : State), s.on P → (memRead a s).2.on P
  write : ∀ (a : Addr) (b : Byte) (s : State), s.on P → (memWrite a b s).on P

variable {P : Memory → Ppu → Env → Prop}

theorem BusKeeps.push (h : BusKeeps P) (b : Byte) (s : State) (hs : s.on P) : (push b s).on P :=
  h.write (stackAddress s.sp) b s hs

theorem BusKeeps.pull (h : BusKeeps P) (s : State) (hs : s.on P) : (pull s).2.on P :=
  h.read _ (s.setSP (s.sp + 1)) hs

theorem BusKeeps.pushWord (h : BusKeeps P) (w : Addr) (s : State) (hs : s.on P) : (pushWord w s).on P :=
  h.push _ _ (h.push _ s hs)

theorem BusKeeps.pullWord (h : BusKeeps P) (s : State) (hs : s.on P) : (pullWord s).2.on P :=
  h.pull _ (h.pull s hs)

theorem BusKeeps.read16 (h : BusKeeps P) (a : Addr) (s : State) (hs : s.on P) : (read16 a s).2.on P :=
  h.read _ _ (h.read a s hs)

theorem BusKeeps.read16Wrap (h : BusKeeps P) (a : Addr) (s : State) (hs : s.on P) : (read16Wrap a s).2.on P :=
  h.read _ _ (h.read a s hs)

theorem BusKeeps.interruptEntry (h : BusKeeps P) (k : EntryKind) (s : State) (hs : s.on P) :
    (interruptEntry k s).on P :=
  h.read16 k.vector (State.setP _ _) (h.push _ _ (h.pushWord _ s hs))

theorem BusKeeps.returnFromInterrupt (h : BusKeeps P) (s : State) (hs : s.on P) : (returnFromInterrupt s).on P :=
  h.pullWord (State.setP _ _) (h.pull s hs)

theorem BusKeeps.readOperand (h : BusKeeps P) (o : ReadOperand) (s : State) (hs : s.on P) :
    (readOperand o s).2.on P := by
  cases o with
  | imm b => exact hs
  | mem m => exact h.read _ (s.start _ _) hs

theorem BusKeeps.storeByte (h : BusKeeps P) (v : Byte) (m : MemOperand) (s t : State) (hs : s.on P)
    (e : storeByte v m s = .next t) : t.on P := by
  cases e
  exact h.write _ _ (s.start _ _) hs

theorem BusKeeps.modifyMemory (h : BusKeeps P) (f : Byte → Byte → Byte × Byte) (m : MemOperand) (s t : State)
    (hs : s.on P) (e : modifyMemory f m s = .next t) : t.on P := by
  cases e
  exact h.write _ _ _ (h.read _ (s.start _ _) hs)

theorem BusKeeps.modify (h : BusKeeps P) (f : Byte → Byte → Byte × Byte) (m : ShiftOperand) (s t : State)
    (hs : s.on P) (e : modify f m s = .next t) : t.on P := by
  cases m with
  | acc => cases e; exact hs
  | mem m => exact h.modifyMemory f m s t hs e

theorem BusKeeps.branchIf (c : Bool) (off : Byte) (s t : State) (hs : s.on P) (e : branchIf c off s = .next t) :
    t.on P := by
  unfold Machine.branchIf at e
  cases c <;> cases e <;> exact hs

/-- Every instruction keeps what the bus keeps. -/
theorem BusKeeps.exec (h : BusKeeps P) (i : Instr) (s t : State) (hs : s.on P) (e : exec i s = .next t) : t.on P := by
  cases i with
  | lda m | ldx m | ldy m => cases e; exact h.readOperand m s hs
  | sta m | stx m | sty m => exact h.storeByte _ m s t hs e
  | tax | tay | txa | tya | tsx | txs | inx | iny | dex | dey => cases e; exact hs
  | adc m | sbc m | and m | ora m | eor m => cases e; exact h.readOperand m s hs
  | cmp m | cpx m | cpy m => cases e; exact h.readOperand m s hs
  | bit m => cases e; exact h.readOperand (.mem m) s hs
  | asl m | lsr m | rol m | ror m => exact h.modify _ m s t hs e
  | inc m | dec m => exact h.modifyMemory _ m s t hs e
  | jmp o =>
    cases o with
    | abs w => cases e; exact hs
    | ind w => cases e; exact h.read16Wrap w s hs
  | jsr w => cases e; exact h.pushWord _ (s.start 3 6) hs
  | rts => cases e; exact h.pullWord (s.start 1 6) hs
  | rti => cases e; exact h.returnFromInterrupt (s.start 1 6) hs
  | brk => cases e; exact h.interruptEntry .brk (s.start 1 7) hs
  | bcc o | bcs o | beq o | bne o | bmi o | bpl o | bvc o | bvs o => exact branchIf _ o s t hs e
  | pha | php => cases e; exact h.push _ (s.start 1 3) hs
  | pla | plp => cases e; exact h.pull (s.start 1 4) hs
  | clc | sec | cli | sei | clv | cld | sed | nop | illegal op => cases e; exact hs

theorem BusKeeps.fetch (h : BusKeeps P) (s : State) (hs : s.on P) : (fetch s).2.on P := by
  have h1 := h.read s.pc s hs
  unfold Machine.fetch
  dsimp only
  split
  · exact h1
  · exact h.read _ _ h1
  · exact h.read _ _ (h.read _ _ h1)

/-- Every CPU step keeps what the bus and a sample of `irq_line` keep. -/
theorem BusKeeps.cpuStep (h : BusKeeps P) (hq : ∀ m p e, P m p e → P m p (irqSample e).2) (s t : State) (hs : s.on P)
    (e : cpuStep s = .next t) : t.on P := by
  have hl : (s.setEnv (irqSample s.env).2).on P := hq _ _ _ hs
  unfold Machine.cpuStep at e
  split at e
  · cases e; exact hs
  · split at e
    · cases e; exact h.interruptEntry .nmi (s.setNmiPending false) hs
    · dsimp only at e
      split at e
      · cases e; exact h.interruptEntry .irq _ hl
      · exact h.exec _ _ t (h.fetch _ hl) e

end Sys2Proof.Machine
end

