-- ==== Sys2Proof/Laws/Operands.lean ====
section
/-! SUPPORT. Reading an operand: the model's operand read is the one claims are stated with (Safety.lean), and the
registers it leaves alone. -/

namespace Sys2Proof.Machine

/-- The operand read of the instructions, in the lengths and costs of R94, R108 and R109. -/
theorem readOperand_eq (o : ReadOperand) (s : State) : readOperand o s = operandOf o s := by
  rcases o with b | m
  · rfl
  · rcases m with b | b | b | w | w | w | b | b <;>
      simp [readOperand, operandOf, State.start, State.past, readAdvance, MemOperand.length, readCost, readCycles,
        pageCrossed, indexedBase, bitNat] <;> split <;> simp_all

@[simp] theorem operandOf_a (o : ReadOperand) (s : State) : (operandOf o s).2.a = s.a := by
  cases o <;> simp [operandOf, State.past]

@[simp] theorem operandOf_x (o : ReadOperand) (s : State) : (operandOf o s).2.x = s.x := by
  cases o <;> simp [operandOf, State.past]

@[simp] theorem operandOf_y (o : ReadOperand) (s : State) : (operandOf o s).2.y = s.y := by
  cases o <;> simp [operandOf, State.past]

@[simp] theorem operandOf_sp (o : ReadOperand) (s : State) : (operandOf o s).2.sp = s.sp := by
  cases o <;> simp [operandOf, State.past]

@[simp] theorem operandOf_p (o : ReadOperand) (s : State) : (operandOf o s).2.p = s.p := by
  cases o <;> simp [operandOf, State.past]

@[simp] theorem operandOf_stall (o : ReadOperand) (s : State) : (operandOf o s).2.stall = s.stall := by
  cases o <;> simp [operandOf, State.past]

@[simp] theorem operandOf_nmiPending (o : ReadOperand) (s : State) : (operandOf o s).2.nmiPending = s.nmiPending := by
  cases o <;> simp [operandOf, State.past]

@[simp] theorem operandOf_ram (o : ReadOperand) (s : State) : (operandOf o s).2.ram = s.ram := by
  cases o <;> simp [operandOf, State.past]

@[simp] theorem operandOf_pc (o : ReadOperand) (s : State) : (operandOf o s).2.pc = s.pc + (readAdvance o s).1 := by
  cases o <;> simp [operandOf, State.past]

@[simp] theorem operandOf_cycles (o : ReadOperand) (s : State) :
    (operandOf o s).2.cycles = s.cycles + (readAdvance o s).2 := by
  cases o <;> simp [operandOf, State.past]

end Sys2Proof.Machine
end

