-- ==== Sys2Proof/Laws/PerInstr.lean ====
section
/-! SUPPORT. Families of statements made for each instruction. `EncodingLength`: the bytes of an encoding are as many
as R94 gives the instruction. -/

namespace Sys2Proof.Laws.EncodingLength

/-- The encoding of the instruction has the instruction's length (30_encoding.md R90, R94). -/
def Statement (i : Instr) : Prop := ∀ bs : List Byte, encode i = some bs → bs.length = i.length

theorem memOperand_bytes (m : MemOperand) : m.bytes.length + 1 = m.length := by cases m <;> rfl

theorem readOperand_bytes (m : ReadOperand) : m.bytes.length + 1 = m.length := by
  cases m with
  | imm b => rfl
  | mem m => exact memOperand_bytes m

theorem shiftOperand_bytes (m : ShiftOperand) : m.bytes.length + 1 = m.length := by
  cases m with
  | acc => rfl
  | mem m => exact memOperand_bytes m

/-- The opcode byte and the operand bytes are the instruction's length. -/
theorem of_operandBytes {i : Instr} (h : i.operandBytes.length + 1 = i.length) : Statement i := by
  intro bs e
  obtain ⟨op, -, rfl⟩ := Option.map_eq_some_iff.1 e
  exact h

theorem lda (m : ReadOperand) : Statement (.lda m) := of_operandBytes (readOperand_bytes m)
theorem ldx (m : ReadOperand) : Statement (.ldx m) := of_operandBytes (readOperand_bytes m)
theorem ldy (m : ReadOperand) : Statement (.ldy m) := of_operandBytes (readOperand_bytes m)
theorem sta (m : MemOperand) : Statement (.sta m) := of_operandBytes (memOperand_bytes m)
theorem stx (m : MemOperand) : Statement (.stx m) := of_operandBytes (memOperand_bytes m)
theorem sty (m : MemOperand) : Statement (.sty m) := of_operandBytes (memOperand_bytes m)
theorem tax : Statement .tax := of_operandBytes rfl
theorem tay : Statement .tay := of_operandBytes rfl
theorem txa : Statement .txa := of_operandBytes rfl
theorem tya : Statement .tya := of_operandBytes rfl
theorem tsx : Statement .tsx := of_operandBytes rfl
theorem txs : Statement .txs := of_operandBytes rfl
theorem adc (m : ReadOperand) : Statement (.adc m) := of_operandBytes (readOperand_bytes m)
theorem sbc (m : ReadOperand) : Statement (.sbc m) := of_operandBytes (readOperand_bytes m)
theorem and (m : ReadOperand) : Statement (.and m) := of_operandBytes (readOperand_bytes m)
theorem ora (m : ReadOperand) : Statement (.ora m) := of_operandBytes (readOperand_bytes m)
theorem eor (m : ReadOperand) : Statement (.eor m) := of_operandBytes (readOperand_bytes m)
theorem cmp (m : ReadOperand) : Statement (.cmp m) := of_operandBytes (readOperand_bytes m)
theorem cpx (m : ReadOperand) : Statement (.cpx m) := of_operandBytes (readOperand_bytes m)
theorem cpy (m : ReadOperand) : Statement (.cpy m) := of_operandBytes (readOperand_bytes m)
theorem bit (m : MemOperand) : Statement (.bit m) := of_operandBytes (memOperand_bytes m)
theorem asl (m : ShiftOperand) : Statement (.asl m) := of_operandBytes (shiftOperand_bytes m)
theorem lsr (m : ShiftOperand) : Statement (.lsr m) := of_operandBytes (shiftOperand_bytes m)
theorem rol (m : ShiftOperand) : Statement (.rol m) := of_operandBytes (shiftOperand_bytes m)
theorem ror (m : ShiftOperand) : Statement (.ror m) := of_operandBytes (shiftOperand_bytes m)
theorem inc (m : MemOperand) : Statement (.inc m) := of_operandBytes (memOperand_bytes m)
theorem dec (m : MemOperand) : Statement (.dec m) := of_operandBytes (memOperand_bytes m)
theorem inx : Statement .inx := of_operandBytes rfl
theorem iny : Statement .iny := of_operandBytes rfl
theorem dex : Statement .dex := of_operandBytes rfl
theorem dey : Statement .dey := of_operandBytes rfl
theorem jmp (t : JumpOperand) : Statement (.jmp t) := of_operandBytes (by cases t <;> rfl)
theorem jsr (w : Addr) : Statement (.jsr w) := of_operandBytes rfl
theorem rts : Statement .rts := of_operandBytes rfl
theorem rti : Statement .rti := of_operandBytes rfl
theorem brk : Statement .brk := of_operandBytes rfl
theorem bcc (off : Byte) : Statement (.bcc off) := of_operandBytes rfl
theorem bcs (off : Byte) : Statement (.bcs off) := of_operandBytes rfl
theorem beq (off : Byte) : Statement (.beq off) := of_operandBytes rfl
theorem bne (off : Byte) : Statement (.bne off) := of_operandBytes rfl
theorem bmi (off : Byte) : Statement (.bmi off) := of_operandBytes rfl
theorem bpl (off : Byte) : Statement (.bpl off) := of_operandBytes rfl
theorem bvc (off : Byte) : Statement (.bvc off) := of_operandBytes rfl
theorem bvs (off : Byte) : Statement (.bvs off) := of_operandBytes rfl
theorem pha : Statement .pha := of_operandBytes rfl
theorem php : Statement .php := of_operandBytes rfl
theorem pla : Statement .pla := of_operandBytes rfl
theorem plp : Statement .plp := of_operandBytes rfl
theorem clc : Statement .clc := of_operandBytes rfl
theorem sec : Statement .sec := of_operandBytes rfl
theorem cli : Statement .cli := of_operandBytes rfl
theorem sei : Statement .sei := of_operandBytes rfl
theorem clv : Statement .clv := of_operandBytes rfl
theorem cld : Statement .cld := of_operandBytes rfl
theorem sed : Statement .sed := of_operandBytes rfl
theorem nop : Statement .nop := of_operandBytes rfl
theorem illegal (opcode : Byte) : Statement (.illegal opcode) := of_operandBytes rfl

end Sys2Proof.Laws.EncodingLength
end

