-- ==== Sys2Proof/Laws/Render.lean ====
section
/-! SUPPORT. What each stage of a dot can change: every stage answers its state with the named fields replaced. -/

namespace Sys2Proof.Machine

/-- The tick changes the two counters, `frame` and `f` alone (R251). -/
theorem tick_eq (p : Ppu) :
    tick p =
      { p with
        cycle := (tick p).cycle, scanline := (tick p).scanline, frame := (tick p).frame, f := (tick p).f } := by
  unfold tick nextFrame
  repeat' split
  all_goals rfl

/-- A pixel changes the zero-hit flag and `back` alone (R280). -/
theorem renderPixel_eq (p : Ppu) : ∃ hit back, renderPixel p = { p with spriteZeroHit := hit, back := back } := ⟨_, _, rfl⟩

theorem pixelStage_eq (p : Ppu) : ∃ hit back, pixelStage p = { p with spriteZeroHit := hit, back := back } := by
  unfold pixelStage
  split
  · exact renderPixel_eq p
  · exact ⟨p.spriteZeroHit, p.back, rfl⟩

theorem fetchNametableByte_eq (g : Video) :
    ∃ b t, fetchNametableByte g = { ppu := { g.ppu with nametableByte := b }, env := { g.env with token := t } } := by
  obtain ⟨t, h⟩ := ppuRead_env (nametableAddress g.ppu.v) g.ppu g.env
  exact ⟨_, t, by unfold fetchNametableByte; dsimp only; rw [h]⟩

theorem fetchAttributeByte_eq (g : Video) :
    ∃ b t, fetchAttributeByte g = { ppu := { g.ppu with attributeByte := b }, env := { g.env with token := t } } := by
  obtain ⟨t, h⟩ := ppuRead_env (attributeAddress g.ppu.v) g.ppu g.env
  exact ⟨_, t, by unfold fetchAttributeByte; dsimp only; rw [h]⟩

theorem fetchLowTileByte_eq (g : Video) :
    ∃ b t, fetchLowTileByte g = { ppu := { g.ppu with lowTileByte := b }, env := { g.env with token := t } } := by
  obtain ⟨t, h⟩ := ppuRead_env (tileAddress g.ppu) g.ppu g.env
  exact ⟨_, t, by unfold fetchLowTileByte; dsimp only; rw [h]⟩

theorem fetchHighTileByte_eq (g : Video) :
    ∃ b t, fetchHighTileByte g = { ppu := { g.ppu with highTileByte := b }, env := { g.env with token := t } } := by
  obtain ⟨t, h⟩ := ppuRead_env (tileAddress g.ppu + 8) g.ppu g.env
  exact ⟨_, t, by unfold fetchHighTileByte; dsimp only; rw [h]⟩

/-- A fetch changes the latches, the shift buffer and the environment's hidden state alone (R260 to R264). -/
theorem fetchCase_eq (g : Video) :
    ∃ (name attr low high : Byte) (data : BitVec 64) (token : Nat),
      fetchCase g =
        { ppu :=
            { g.ppu with
              nametableByte := name, attributeByte := attr, lowTileByte := low, highTileByte := high, tileData := data }
          env := { g.env with token := token } } := by
  unfold fetchCase
  split
  · obtain ⟨b, t, h⟩ := fetchNametableByte_eq g
    exact ⟨b, g.ppu.attributeByte, g.ppu.lowTileByte, g.ppu.highTileByte, g.ppu.tileData, t, h⟩
  · obtain ⟨b, t, h⟩ := fetchAttributeByte_eq g
    exact ⟨g.ppu.nametableByte, b, g.ppu.lowTileByte, g.ppu.highTileByte, g.ppu.tileData, t, h⟩
  · obtain ⟨b, t, h⟩ := fetchLowTileByte_eq g
    exact ⟨g.ppu.nametableByte, g.ppu.attributeByte, b, g.ppu.highTileByte, g.ppu.tileData, t, h⟩
  · obtain ⟨b, t, h⟩ := fetchHighTileByte_eq g
    exact ⟨g.ppu.nametableByte, g.ppu.attributeByte, g.ppu.lowTileByte, b, g.ppu.tileData, t, h⟩
  · exact ⟨g.ppu.nametableByte, g.ppu.attributeByte, g.ppu.lowTileByte, g.ppu.highTileByte, _, g.env.token, rfl⟩
  · exact ⟨g.ppu.nametableByte, g.ppu.attributeByte, g.ppu.lowTileByte, g.ppu.highTileByte, g.ppu.tileData,
      g.env.token, rfl⟩

theorem fetchStage_eq (g : Video) :
    ∃ (name attr low high : Byte) (data : BitVec 64) (token : Nat),
      fetchStage g =
        { ppu :=
            { g.ppu with
              nametableByte := name, attributeByte := attr, lowTileByte := low, highTileByte := high, tileData := data }
          env := { g.env with token := token } } := by
  unfold fetchStage
  split
  · exact fetchCase_eq { g with ppu := { g.ppu with tileData := g.ppu.tileData <<< 4 } }
  · exact ⟨g.ppu.nametableByte, g.ppu.attributeByte, g.ppu.lowTileByte, g.ppu.highTileByte, g.ppu.tileData,
      g.env.token, rfl⟩

theorem fetchSpritePattern_env (i row : Nat) (p : Ppu) (e : Env) :
    ∃ t, (fetchSpritePattern i row p e).2 = { e with token := t } := by
  unfold fetchSpritePattern
  obtain ⟨t, h⟩ := ppuRead_env (spriteAddress p i row) p e
  obtain ⟨u, h'⟩ := ppuRead_env (spriteAddress p i row + 8) p { e with token := t }
  exact ⟨u, by dsimp only; rw [h, h']⟩

/-- One turn of the scan changes one slot and the environment's hidden state at most (R271). -/
theorem evaluateSprite_eq (acc : Nat × Video) (i : Nat) :
    ∃ sprites token, (evaluateSprite acc i).2 =
      { ppu := { acc.2.ppu with sprites := sprites }, env := { acc.2.env with token := token } } := by
  unfold evaluateSprite
  dsimp only
  split
  · split
    · obtain ⟨t, h⟩ := fetchSpritePattern_env i (acc.2.ppu.scanline - (oamByte acc.2.ppu (4 * i)).toNat) acc.2.ppu
        acc.2.env
      exact ⟨_, t, by dsimp only; rw [h]⟩
    · exact ⟨acc.2.ppu.sprites, acc.2.env.token, rfl⟩
  · exact ⟨acc.2.ppu.sprites, acc.2.env.token, rfl⟩

theorem evaluateSprite_foldl (l : List Nat) (acc : Nat × Video) :
    ∃ sprites token, (l.foldl evaluateSprite acc).2 =
      { ppu := { acc.2.ppu with sprites := sprites }, env := { acc.2.env with token := token } } := by
  induction l generalizing acc with
  | nil => exact ⟨acc.2.ppu.sprites, acc.2.env.token, rfl⟩
  | cons i l ih =>
    obtain ⟨v, t, h⟩ := ih (evaluateSprite acc i)
    obtain ⟨v', t', h'⟩ := evaluateSprite_eq acc i
    exact ⟨v, t, by rw [List.foldl_cons, h, h']⟩

/-- Sprite evaluation changes the slots, their count, the overflow flag and the environment's hidden state alone; the
count stays within the eight slots (R271, R34). -/
theorem spriteStage_eq (g : Video) :
    ∃ (sprites : Vector SpriteSlot 8) (count : Nat) (overflow : Bool) (token : Nat),
      spriteStage g =
        { ppu := { g.ppu with sprites := sprites, spriteCount := count, spriteOverflow := overflow }
          env := { g.env with token := token } } ∧
      (count ≤ 8 ∨ count = g.ppu.spriteCount) := by
  unfold spriteStage
  split
  · split
    · obtain ⟨v, t, h⟩ := evaluateSprite_foldl (List.range 64) (0, g)
      exact ⟨v, _, _, t, by simp only [evaluateSprites, h]; rfl, .inl (by omega)⟩
    · exact ⟨g.ppu.sprites, 0, g.ppu.spriteOverflow, g.env.token, rfl, .inl (by omega)⟩
  · exact ⟨g.ppu.sprites, g.ppu.spriteCount, g.ppu.spriteOverflow, g.env.token, rfl, .inr rfl⟩

/-- Everything the rendering part of a dot can change (R250). -/
theorem renderStage_eq (g : Video) :
    ∃ (name attr low high : Byte) (data : BitVec 64) (v : BitVec 15) (sprites : Vector SpriteSlot 8) (count : Nat)
      (overflow : Bool) (token : Nat),
      renderStage g =
        { ppu :=
            { g.ppu with
              nametableByte := name, attributeByte := attr, lowTileByte := low, highTileByte := high, tileData := data
              v := v, sprites := sprites, spriteCount := count, spriteOverflow := overflow }
          env := { g.env with token := token } } ∧
      (count ≤ 8 ∨ count = g.ppu.spriteCount) := by
  unfold renderStage
  split
  · obtain ⟨a, b, c, d, e, t, h⟩ := fetchStage_eq g
    dsimp only
    rw [h]
    obtain ⟨s, n, o, u, h', hn⟩ :=
      spriteStage_eq
        { ppu :=
            scrollStage
              { g.ppu with
                nametableByte := a, attributeByte := b, lowTileByte := c, highTileByte := d, tileData := e }
          env := { g.env with token := t } }
    exact ⟨a, b, c, d, e, _, s, n, o, u, h', hn⟩
  · exact ⟨g.ppu.nametableByte, g.ppu.attributeByte, g.ppu.lowTileByte, g.ppu.highTileByte, g.ppu.tileData, g.ppu.v,
      g.ppu.sprites, g.ppu.spriteCount, g.ppu.spriteOverflow, g.env.token, rfl, .inr rfl⟩

/-- Everything the vertical-blank stage can change; `back` only on the dot (241, 1) (R290, R291). -/
theorem vblankStage_eq (g : Video) :
    ∃ (front back : Grid) (sent : Nat) (occurred prev : Bool) (delay : Nat) (hit overflow : Bool) (token : Nat),
      vblankStage g =
        { ppu :=
            { g.ppu with
              front := front, back := back, framesSent := sent, nmiOccurred := occurred, nmiPrev := prev
              nmiDelay := delay, spriteZeroHit := hit, spriteOverflow := overflow }
          env := { g.env with token := token } } ∧
      (g.ppu.scanline < 240 → back = g.ppu.back) := by
  unfold vblankStage
  split
  · rename_i h
    simp at h
    exact ⟨_, _, _, _, _, _, g.ppu.spriteZeroHit, g.ppu.spriteOverflow, _, rfl, by omega⟩
  · split
    · exact ⟨_, _, _, _, _, _, _, _, g.env.token, rfl, fun _ => rfl⟩
    · exact ⟨g.ppu.front, g.ppu.back, _, _, _, _, _, _, g.env.token, rfl, fun _ => rfl⟩

end Sys2Proof.Machine
end

