-- ==== Sys2Proof/Laws/Stack.lean ====
section
/-! SUPPORT. Pushing, pulling and taking an interrupt, each as one record of the state it answers, and the writes of RAM
read back in the terms of Safety.lean. -/

namespace Sys2Proof.Machine

/-- One write of RAM, read back. -/
theorem ramWith_write (m : Memory) (a : Addr) (b : Byte) : ramWith m (m.write (ramIndex a) b) [(a, b)] := by
  intro c
  by_cases h : ramIndex a = ramIndex c <;> simp [Memory.read_write, h]

/-- A later write of RAM stands before the earlier ones. -/
theorem ramWith_cons {m n : Memory} {l : List (Addr × Byte)} (h : ramWith m n l) (a : Addr) (b : Byte) :
    ramWith m (n.write (ramIndex a) b) ((a, b) :: l) := by
  intro c
  have hc := h c
  by_cases h' : ramIndex a = ramIndex c
  · simp [Memory.read_write, h']
  · simp [Memory.read_write, h', hc]

/-- A word is pushed high byte first (R181, R335). -/
theorem pushWord_eq (w : Addr) (s : State) :
    pushWord w s =
      { s with
        sp := s.sp - 2
        ram :=
          (s.ram.write (ramIndex (word16 1 s.sp)) (hiByte w)).write (ramIndex (word16 1 (s.sp - 1))) (loByte w) } := by
  have h : s.sp - 1#8 - 1#8 = s.sp - 2#8 := by bv_omega
  simp [pushWord, push_eq, State.setRam, State.setSP, stackAddress, Config.stackPage, h]

/-- A word is pulled low byte first (R182, R183). -/
theorem pullWord_eq (s : State) :
    pullWord s =
      (word16 (s.ramByte (word16 1 (s.sp + 2))) (s.ramByte (word16 1 (s.sp + 1))), { s with sp := s.sp + 2 }) := by
  have h : s.sp + 1#8 + 1#8 = s.sp + 2#8 := by bv_omega
  simp [pullWord, pull_eq, State.setSP, stackAddress, Config.stackPage, State.ramByte, h]

/-- Everything an interrupt entry does (R335). -/
theorem interruptEntry_eq (k : EntryKind) (s : State) :
    interruptEntry k s =
      { s with
        pc := (read16 k.vector s).1
        cycles := s.cycles + k.ownCycles
        sp := s.sp - 3
        p := putBit 2 true s.p
        ram :=
          ((s.ram.write (ramIndex (word16 1 s.sp)) (hiByte (k.returnAddress s.pc))).write
            (ramIndex (word16 1 (s.sp - 1))) (loByte (k.returnAddress s.pc))).write
            (ramIndex (word16 1 (s.sp - 2))) (k.pushedStatus s.p)
        env := (read16 k.vector s).2.env } := by
  have h : s.sp - 2#8 - 1#8 = s.sp - 3#8 := by bv_omega
  cases k <;>
    simp [interruptEntry, pushWord_eq, push_eq, EntryKind.vector, read16_vecNmi, read16_vecIrq, State.setPC,
      State.addCycles, State.setP, State.setEnv, State.setSP, State.setRam, stackAddress, Config.stackPage, h]

end Sys2Proof.Machine
end

