-- ==== Sys2Proof/Tests/Slice0.lean ====
section
/-! SUPPORT. Tests. Expected values are those of spec/95_test_vectors.md (the id stands in each comment), of the
encoding lines of the instruction rules, or follow by hand from the rule named. After them, a witness for the hypotheses
of each statement that has some. -/

namespace Sys2Proof.Machine.Tests

/- One theorem at a time: each waits for the kernel, and the waiting threads' stacks would add up. -/
set_option Elab.async false

open Sys2Proof Sys2Proof.Machine

/-- The memory of some bytes from an address on. -/
def bytesAt (a : Nat) : List Byte → Memory
  | [] => []
  | b :: bs => (a, b) :: bytesAt (a + 1) bs

/-- The start state of 95_test_vectors.md with the program `bs` at $C000: reset vector $C000, NMI vector $C100, IRQ and
BRK vector $D000. -/
def start (bs : List Byte) : State :=
  powerOn (Env.testcart (bytesAt 0xC000 bs ++ [(0xFFFB, 0xC1), (0xFFFD, 0xC0), (0xFFFF, 0xD0)]) [])

/-- The byte `b` placed in RAM at `a`. -/
def State.poke (s : State) (a : Nat) (b : Byte) : State := { s with ram := s.ram.write a b }

/-- What `f` sees of the state after one CPU step. -/
def after {α : Type} (s : State) (f : State → α) : Option α :=
  match cpuStep s with
  | .next t => some (f t)
  | .fault _ => none
  | .refused _ => none

/-- What `f` sees of the state after `n` steps of the machine. -/
def afterSteps {α : Type} (n : Nat) (s : State) (f : State → α) : Option α :=
  match Sys2Proof.core.run n s with
  | .next t => some (f t)
  | .fault _ => none
  | .refused _ => none

/-- The PPU of the start state with its environment, `chr` in the pattern tables. -/
def video (chr : Memory) (f : Ppu → Ppu) : Video := { ppu := f (start []).ppu, env := Env.testcart [] chr }

/-- An outcome that is a next state. -/
def isNext (r : Result) : Bool :=
  match r with
  | .next _ => true
  | .fault _ => false
  | .refused _ => false

theorem exists_next {r : Result} (h : isNext r = true) : ∃ t, r = .next t := by
  match r, h with
  | .next t, _ => exact ⟨t, rfl⟩

/-! Ill-formed terms are refused, one test for each check of WellFormed.lean (R110, R111), and have no encoding. -/

theorem test_illformed_full : Instr.wellFormed (.lda (.mem (.zpY 0))) = false ∧ Instr.wellFormed (.sta (.zpY 0)) = false ∧
    Instr.wellFormed (.adc (.mem (.zpY 0))) = false ∧ Instr.wellFormed (.cmp (.mem (.zpY 0))) = false := by decide

theorem test_illformed_ldx : Instr.wellFormed (.ldx (.mem (.zpX 0))) = false ∧
    Instr.wellFormed (.ldx (.mem (.absX 0))) = false ∧ Instr.wellFormed (.ldx (.mem (.indY 0))) = false := by decide

theorem test_illformed_ldy : Instr.wellFormed (.ldy (.mem (.zpY 0))) = false ∧
    Instr.wellFormed (.ldy (.mem (.absY 0))) = false := by decide

theorem test_illformed_modify : Instr.wellFormed (.asl (.mem (.absY 0))) = false ∧
    Instr.wellFormed (.inc (.indX 0)) = false ∧ Instr.wellFormed (.dec (.zpY 0)) = false := by decide

theorem test_illformed_plain : Instr.wellFormed (.bit (.zpX 0)) = false ∧
    Instr.wellFormed (.cpx (.mem (.absX 0))) = false ∧ Instr.wellFormed (.cpy (.mem (.zpY 0))) = false := by decide

theorem test_illformed_stx : Instr.wellFormed (.stx (.zpX 0)) = false ∧ Instr.wellFormed (.stx (.absY 0)) = false := by
  decide

theorem test_illformed_sty : Instr.wellFormed (.sty (.zpY 0)) = false ∧ Instr.wellFormed (.sty (.absX 0)) = false := by
  decide

theorem test_illformed_illegal : Instr.wellFormed (.illegal 0xEA) = false ∧ Instr.wellFormed (.illegal 0x00) = false := by
  decide

theorem test_illformed_has_no_encoding : encode (.stx (.absY 0)) = none ∧ encode (.illegal 0xEA) = none ∧
    encode (.inc (.indX 0)) = none := by decide

/-! One word of every constructor, its bits written out from the encoding lines of its rule. -/

theorem test_decode_load_store :
    decode [0b10100101, 0x10] = .ok (.lda (.mem (.zp 0x10)), []) ∧
    decode [0b10110110, 0x10] = .ok (.ldx (.mem (.zpY 0x10)), []) ∧
    decode [0b10111100, 0x34, 0x12] = .ok (.ldy (.mem (.absX 0x1234)), []) ∧
    decode [0b10010001, 0x20] = .ok (.sta (.indY 0x20), []) ∧
    decode [0b10010110, 0xFF] = .ok (.stx (.zpY 0xFF), []) ∧
    decode [0b10001100, 0x00, 0x08] = .ok (.sty (.abs 0x0800), []) := by
  refine ⟨rfl, rfl, rfl, rfl, rfl, rfl⟩

theorem test_decode_transfer :
    decode [0b10101010] = .ok (.tax, []) ∧
    decode [0b10101000] = .ok (.tay, []) ∧
    decode [0b10001010] = .ok (.txa, []) ∧
    decode [0b10011000] = .ok (.tya, []) ∧
    decode [0b10111010] = .ok (.tsx, []) ∧
    decode [0b10011010] = .ok (.txs, []) := by
  refine ⟨rfl, rfl, rfl, rfl, rfl, rfl⟩

theorem test_decode_arithmetic :
    decode [0b01101001, 0x50] = .ok (.adc (.imm 0x50), []) ∧
    decode [0b11111001, 0x34, 0x12] = .ok (.sbc (.mem (.absY 0x1234)), []) ∧
    decode [0b00111101, 0x34, 0x12] = .ok (.and (.mem (.absX 0x1234)), []) ∧
    decode [0b00000001, 0x10] = .ok (.ora (.mem (.indX 0x10)), []) ∧
    decode [0b01010101, 0x10] = .ok (.eor (.mem (.zpX 0x10)), []) ∧
    decode [0b11001001, 0x40] = .ok (.cmp (.imm 0x40), []) ∧
    decode [0b11101100, 0x34, 0x12] = .ok (.cpx (.mem (.abs 0x1234)), []) ∧
    decode [0b11000000, 0x20] = .ok (.cpy (.imm 0x20), []) ∧
    decode [0b00100100, 0x10] = .ok (.bit (.zp 0x10), []) := by
  refine ⟨rfl, rfl, rfl, rfl, rfl, rfl, rfl, rfl, rfl⟩

theorem test_decode_shift :
    decode [0b00001010] = .ok (.asl .acc, []) ∧
    decode [0b01010110, 0xFF] = .ok (.lsr (.mem (.zpX 0xFF)), []) ∧
    decode [0b00101110, 0x00, 0x03] = .ok (.rol (.mem (.abs 0x0300)), []) ∧
    decode [0b01111110, 0x00, 0x03] = .ok (.ror (.mem (.absX 0x0300)), []) ∧
    decode [0b11100110, 0x10] = .ok (.inc (.zp 0x10), []) ∧
    decode [0b11001110, 0x00, 0x03] = .ok (.dec (.abs 0x0300), []) := by
  refine ⟨rfl, rfl, rfl, rfl, rfl, rfl⟩

theorem test_decode_count :
    decode [0b11101000] = .ok (.inx, []) ∧
    decode [0b11001000] = .ok (.iny, []) ∧
    decode [0b11001010] = .ok (.dex, []) ∧
    decode [0b10001000] = .ok (.dey, []) := by
  refine ⟨rfl, rfl, rfl, rfl⟩

theorem test_decode_control :
    decode [0b01101100, 0xFF, 0x02] = .ok (.jmp (.ind 0x02FF), []) ∧
    decode [0b00100000, 0x10, 0xC0] = .ok (.jsr 0xC010, []) ∧
    decode [0b01100000] = .ok (.rts, []) ∧
    decode [0b01000000] = .ok (.rti, []) ∧
    decode [0b00000000] = .ok (.brk, []) := by
  refine ⟨rfl, rfl, rfl, rfl, rfl⟩

theorem test_decode_branch :
    decode [0b10010000, 0x05] = .ok (.bcc 0x05, []) ∧
    decode [0b10110000, 0x05] = .ok (.bcs 0x05, []) ∧
    decode [0b11110000, 0x05] = .ok (.beq 0x05, []) ∧
    decode [0b11010000, 0xFE] = .ok (.bne 0xFE, []) ∧
    decode [0b00110000, 0x05] = .ok (.bmi 0x05, []) ∧
    decode [0b00010000, 0x05] = .ok (.bpl 0x05, []) ∧
    decode [0b01010000, 0x05] = .ok (.bvc 0x05, []) ∧
    decode [0b01110000, 0x05] = .ok (.bvs 0x05, []) := by
  refine ⟨rfl, rfl, rfl, rfl, rfl, rfl, rfl, rfl⟩

theorem test_decode_stack :
    decode [0b01001000] = .ok (.pha, []) ∧
    decode [0b00001000] = .ok (.php, []) ∧
    decode [0b01101000] = .ok (.pla, []) ∧
    decode [0b00101000] = .ok (.plp, []) := by
  refine ⟨rfl, rfl, rfl, rfl⟩

theorem test_decode_flag :
    decode [0b00011000] = .ok (.clc, []) ∧
    decode [0b00111000] = .ok (.sec, []) ∧
    decode [0b01011000] = .ok (.cli, []) ∧
    decode [0b01111000] = .ok (.sei, []) ∧
    decode [0b10111000] = .ok (.clv, []) ∧
    decode [0b11011000] = .ok (.cld, []) ∧
    decode [0b11111000] = .ok (.sed, []) ∧
    decode [0b11101010] = .ok (.nop, []) ∧
    decode [0b00000010] = .ok (.illegal 0x02, []) ∧
    decode [0b11111111] = .ok (.illegal 0xFF, []) := by
  refine ⟨rfl, rfl, rfl, rfl, rfl, rfl, rfl, rfl, rfl, rfl⟩

theorem test_decode_short : decode [] = .error .noOpcode ∧ decode [0xA9] = .error (.missingOperand 0xA9) ∧
    decode [0x4C, 0x00] = .error (.missingOperand 0x4C) := ⟨rfl, rfl, rfl⟩

/-- The opcode table's numbering of a word's bits: the first byte lowest. -/
theorem test_decode_table_word : decodeTableWord 24 0x12F0BD = some (.lda (.mem (.absX 0x12F0))) ∧
    decodeTableWord 8 0x00 = some .brk ∧ decodeTableWord 8 0x20 = some (.jsr 0) := by decide +kernel

/-! One CPU step of each instruction: what it changes and the cycles it takes (95_test_vectors.md part 2). -/

/-- LS2. -/
theorem test_lda_negative :
    after (start [0xA9, 0x80]) (fun t => (t.a, t.p, t.pc, t.cycles)) =
      some (0x80, 0xA4, 0xC002, 9) := by decide +kernel

/-- LS6. -/
theorem test_lda_indirect_wraps :
    after (State.poke (State.poke (State.poke ({ start [0xB1, 0xFF] with y := 0x01 }) 0xFF 0xFF) 0x00 0x02) 0x300 0x99) (fun t => (t.a, t.p, t.cycles)) =
      some (0x99, 0xA4, 13) := by decide +kernel

/-- LS8. -/
theorem test_ldx_wraps :
    after (State.poke ({ start [0xB6, 0xF0] with y := 0x20 }) 0x10 0x80) (fun t => (t.x, t.p, t.cycles)) =
      some (0x80, 0xA4, 11) := by decide +kernel

/-- LS9. -/
theorem test_ldy_same_page :
    after ({ start [0xBC, 0x00, 0x02] with x := 0xFF, y := 0x55 }) (fun t => (t.y, t.p, t.cycles)) =
      some (0x00, 0x26, 11) := by decide +kernel

/-- LS10. -/
theorem test_sta_always_pays :
    after ({ start [0x9D, 0xF0, 0x12] with x := 0x20, a := 0x5A }) (fun t => (t.ram, t.p, t.cycles)) =
      some ([(0x310, 0x5A)], 0x24, 12) := by decide +kernel

/-- LS11. -/
theorem test_sta_indirect :
    after (State.poke (State.poke ({ start [0x91, 0x20] with y := 0xFF, a := 0x66 }) 0x20 0x01) 0x21 0x03) (fun t => (t.ram.read 0x400, t.cycles)) =
      some (0x66, 13) := by decide +kernel

/-- LS12. -/
theorem test_stx_wraps :
    after ({ start [0x96, 0xFF] with y := 0x02, x := 0x07 }) (fun t => (t.ram, t.cycles)) =
      some ([(0x001, 0x07)], 11) := by decide +kernel

/-- LS13. -/
theorem test_sty_mirror :
    after ({ start [0x8C, 0x00, 0x08] with y := 0x09 }) (fun t => (t.ram, t.cycles)) =
      some ([(0x000, 0x09)], 11) := by decide +kernel

/-- LS14. -/
theorem test_tax_zero :
    after ({ start [0xAA] with x := 0x55 }) (fun t => (t.x, t.p)) =
      some (0x00, 0x26) := by decide +kernel

/-- LS15. -/
theorem test_txs_no_flags : after (start [0x9A]) (fun t => (t.sp, t.p)) = some (0x00, 0x24) := by decide +kernel

/-- LS16. -/
theorem test_tsx : after (start [0xBA]) (fun t => (t.x, t.p)) = some (0xFD, 0xA4) := by decide +kernel

/-- LS17. -/
theorem test_tya :
    after ({ start [0x98] with y := 0x80 }) (fun t => (t.a, t.p)) =
      some (0x80, 0xA4) := by decide +kernel

/-- LS18. -/
theorem test_tay :
    after ({ start [0xA8] with a := 0x7F }) (fun t => (t.y, t.p)) =
      some (0x7F, 0x24) := by decide +kernel

/-- LS19. -/
theorem test_txa :
    after ({ start [0x8A] with a := 0x55 }) (fun t => (t.a, t.p)) =
      some (0x00, 0x26) := by decide +kernel

/-- AL1. -/
theorem test_adc_overflow :
    after ({ start [0x69, 0x50] with a := 0x50 }) (fun t => (t.a, t.p)) =
      some (0xA0, 0xE4) := by decide +kernel

/-- AL6. -/
theorem test_adc_carry_in :
    after ({ start [0x69, 0x00] with a := 0x7F, p := 0x25 }) (fun t => (t.a, t.p)) =
      some (0x80, 0xE4) := by decide +kernel

/-- AL12. -/
theorem test_sbc_overflow :
    after ({ start [0xE9, 0xB0] with a := 0x50, p := 0x25 }) (fun t => (t.a, t.p)) =
      some (0xA0, 0xE4) := by decide +kernel

/-- AL18. -/
theorem test_sbc_borrow_in :
    after ({ start [0xE9, 0x05] with a := 0x05 }) (fun t => (t.a, t.p)) =
      some (0xFF, 0xA4) := by decide +kernel

/-- AL19. -/
theorem test_and :
    after ({ start [0x29, 0x0F] with a := 0xF0 }) (fun t => (t.a, t.p)) =
      some (0x00, 0x26) := by decide +kernel

/-- AL20. -/
theorem test_ora :
    after ({ start [0x09, 0x01] with a := 0x80 }) (fun t => (t.a, t.p)) =
      some (0x81, 0xA4) := by decide +kernel

/-- AL22. -/
theorem test_eor :
    after ({ start [0x49, 0xF0] with a := 0x0F }) (fun t => (t.a, t.p)) =
      some (0xFF, 0xA4) := by decide +kernel

/-- AL24. -/
theorem test_cmp_less :
    after ({ start [0xC9, 0x41] with a := 0x40 }) (fun t => (t.a, t.p)) =
      some (0x40, 0xA4) := by decide +kernel

/-- AL26. -/
theorem test_cmp_borrow : after (start [0xC9, 0xFF]) (fun t => (t.a, t.p)) = some (0x00, 0x24) := by decide +kernel

/-- AL29. -/
theorem test_cpx :
    after ({ start [0xE0, 0x20] with x := 0x10 }) (fun t => (t.x, t.p)) =
      some (0x10, 0xA4) := by decide +kernel

/-- AL30. -/
theorem test_cpy :
    after ({ start [0xC0, 0x20] with y := 0x20 }) (fun t => (t.y, t.p)) =
      some (0x20, 0x27) := by decide +kernel

/-- AL31. -/
theorem test_bit_sets :
    after (State.poke ({ start [0x24, 0x10] with a := 0x01 }) 0x10 0xC0) (fun t => (t.a, t.p, t.cycles)) =
      some (0x01, 0xE6, 10) := by decide +kernel

/-- AL32. -/
theorem test_bit_clears :
    after (State.poke ({ start [0x24, 0x10] with a := 0xFF, p := 0xE4 }) 0x10 0x3F) (fun t => (t.p)) =
      some (0x24) := by decide +kernel

/-- SH2. -/
theorem test_asl_drops_carry :
    after ({ start [0x0A] with a := 0xC1, p := 0x25 }) (fun t => (t.a, t.p)) =
      some (0x82, 0xA5) := by decide +kernel

/-- SH9. -/
theorem test_asl_memory :
    after (State.poke (start [0x06, 0x10]) 0x10 0x55) (fun t => (t.ram, t.p, t.cycles)) =
      some ([(0x10, 0xAA)], 0xA4, 12) := by decide +kernel

/-- SH4. -/
theorem test_lsr_accumulator :
    after ({ start [0x4A] with a := 0x80, p := 0xA4 }) (fun t => (t.a, t.p)) =
      some (0x40, 0x24) := by decide +kernel

/-- SH11. -/
theorem test_lsr_wraps :
    after (State.poke ({ start [0x56, 0xFF] with x := 0x02 }) 0x01 0x02) (fun t => (t.ram, t.p, t.cycles)) =
      some ([(0x01, 0x01)], 0x24, 13) := by decide +kernel

/-- SH6. -/
theorem test_rol_carry_in :
    after ({ start [0x2A] with p := 0x25 }) (fun t => (t.a, t.p)) =
      some (0x01, 0x24) := by decide +kernel

/-- SH12. -/
theorem test_rol_memory :
    after (State.poke ({ start [0x2E, 0x00, 0x03] with p := 0x25 }) 0x300 0xFF) (fun t => (t.ram, t.p, t.cycles)) =
      some ([(0x300, 0xFF)], 0xA5, 13) := by decide +kernel

/-- SH8. -/
theorem test_ror_carry_in :
    after ({ start [0x6A] with p := 0x25 }) (fun t => (t.a, t.p)) =
      some (0x80, 0xA4) := by decide +kernel

/-- SH10. -/
theorem test_ror_memory :
    after (State.poke ({ start [0x7E, 0x00, 0x03] with x := 0x01, p := 0x25 }) 0x301 0x03) (fun t => (t.ram, t.p, t.cycles)) =
      some ([(0x301, 0x81)], 0xA5, 14) := by decide +kernel

/-- SH14. -/
theorem test_inc_seven_cycles :
    after (State.poke ({ start [0xFE, 0xFF, 0x12] with x := 0x01 }) 0x300 0xFF) (fun t => (t.ram, t.p, t.cycles)) =
      some ([], 0x26, 14) := by decide +kernel

/-- SH16. -/
theorem test_dec_wraps :
    after (start [0xCE, 0x00, 0x03]) (fun t => (t.ram, t.p, t.cycles)) =
      some ([(0x300, 0xFF)], 0xA4, 13) := by decide +kernel

/-- SH17. -/
theorem test_inx :
    after ({ start [0xE8] with x := 0xFF }) (fun t => (t.x, t.p)) =
      some (0x00, 0x26) := by decide +kernel

/-- SH18. -/
theorem test_iny :
    after ({ start [0xC8] with y := 0x7F }) (fun t => (t.y, t.p)) =
      some (0x80, 0xA4) := by decide +kernel

/-- SH19. -/
theorem test_dex : after (start [0xCA]) (fun t => (t.x, t.p)) = some (0xFF, 0xA4) := by decide +kernel

/-- SH20. -/
theorem test_dey :
    after ({ start [0x88] with y := 0x01 }) (fun t => (t.y, t.p)) =
      some (0x00, 0x26) := by decide +kernel

/-- CF1. -/
theorem test_jmp_absolute :
    after (start [0x4C, 0x34, 0x12]) (fun t => (t.pc, t.cycles)) =
      some (0x1234, 10) := by decide +kernel

/-- CF2. -/
theorem test_jmp_indirect_wraps :
    after (State.poke (State.poke (State.poke (start [0x6C, 0xFF, 0x02]) 0x2FF 0x34) 0x200 0x12) 0x300 0x56) (fun t => (t.pc, t.cycles)) =
      some (0x1234, 12) := by decide +kernel

/-- CF4. -/
theorem test_jsr :
    after (start [0x20, 0x10, 0xC0]) (fun t => (t.pc, t.sp, t.ram, t.cycles)) =
      some (0xC010, 0xFB, [(0x1FC, 0x02), (0x1FD, 0xC0)], 13) := by decide +kernel

/-- as CF5, at $C000: $0100 <- $C0, $01FF <- $02. -/
theorem test_jsr_stack_wraps :
    after ({ start [0x20, 0x00, 0xD0] with sp := 0x00 }) (fun t => (t.pc, t.sp, t.ram)) =
      some (0xD000, 0xFE, [(0x100, 0xC0), (0x1FF, 0x02)]) := by decide +kernel

/-- CF6. -/
theorem test_rts :
    after (State.poke (State.poke ({ start [0x60] with sp := 0xFB }) 0x1FC 0x02) 0x1FD 0xC0) (fun t => (t.pc, t.sp, t.cycles)) =
      some (0xC003, 0xFD, 13) := by decide +kernel

/-- CF7. -/
theorem test_rts_wraps :
    after (State.poke (State.poke ({ start [0x60] with sp := 0xFE }) 0x1FF 0xFF) 0x100 0xFF) (fun t => (t.pc, t.sp)) =
      some (0x0000, 0x00) := by decide +kernel

/-- CF8. -/
theorem test_rti :
    after (State.poke (State.poke (State.poke ({ start [0x40] with sp := 0xFA }) 0x1FB 0xC3) 0x1FC 0x34) 0x1FD 0x12) (fun t => (t.p, t.pc, t.sp, t.cycles)) =
      some (0xE3, 0x1234, 0xFD, 13) := by decide +kernel

/-- CF10. -/
theorem test_brk :
    after (start [0x00]) (fun t => (t.pc, t.sp, t.ram, t.cycles)) =
      some (0xD000, 0xFA, [(0x1FB, 0x34), (0x1FC, 0x02), (0x1FD, 0xC0)], 14) := by decide +kernel

/-- CF11 but for its vector. -/
theorem test_brk_keeps_flags :
    after ({ start [0x00] with sp := 0x01, p := 0xE1 }) (fun t => (t.sp, t.p, t.ram)) =
      some (0xFE, 0xE5, [(0x100, 0x02), (0x101, 0xC0), (0x1FF, 0xF1)]) := by decide +kernel

/-- BR1. -/
theorem test_bcc_taken :
    after ({ start [0x90, 0x05] with p := 0x24 }) (fun t => (t.pc, t.p, t.cycles)) =
      some (0xC007, 0x24, 10) := by decide +kernel

/-- BR2. -/
theorem test_bcc_not_taken :
    after ({ start [0x90, 0x05] with p := 0x25 }) (fun t => (t.pc, t.cycles)) =
      some (0xC002, 9) := by decide +kernel

/-- BR3. -/
theorem test_bcs_taken :
    after ({ start [0xB0, 0x05] with p := 0x25 }) (fun t => (t.pc, t.p, t.cycles)) =
      some (0xC007, 0x25, 10) := by decide +kernel

/-- R185 and the rule of the branch. -/
theorem test_bcs_not_taken :
    after ({ start [0xB0, 0x05] with p := 0x24 }) (fun t => (t.pc, t.cycles)) =
      some (0xC002, 9) := by decide +kernel

/-- BR4. -/
theorem test_beq_taken :
    after ({ start [0xF0, 0x05] with p := 0x26 }) (fun t => (t.pc, t.p, t.cycles)) =
      some (0xC007, 0x26, 10) := by decide +kernel

/-- R185 and the rule of the branch. -/
theorem test_beq_not_taken :
    after ({ start [0xF0, 0x05] with p := 0x24 }) (fun t => (t.pc, t.cycles)) =
      some (0xC002, 9) := by decide +kernel

/-- R185 and the rule of the branch. -/
theorem test_bne_taken :
    after ({ start [0xD0, 0x05] with p := 0x24 }) (fun t => (t.pc, t.p, t.cycles)) =
      some (0xC007, 0x24, 10) := by decide +kernel

/-- BR5. -/
theorem test_bne_not_taken :
    after ({ start [0xD0, 0x05] with p := 0x26 }) (fun t => (t.pc, t.cycles)) =
      some (0xC002, 9) := by decide +kernel

/-- BR6. -/
theorem test_bmi_taken :
    after ({ start [0x30, 0x05] with p := 0xA4 }) (fun t => (t.pc, t.p, t.cycles)) =
      some (0xC007, 0xA4, 10) := by decide +kernel

/-- R185 and the rule of the branch. -/
theorem test_bmi_not_taken :
    after ({ start [0x30, 0x05] with p := 0x24 }) (fun t => (t.pc, t.cycles)) =
      some (0xC002, 9) := by decide +kernel

/-- R185 and the rule of the branch. -/
theorem test_bpl_taken :
    after ({ start [0x10, 0x05] with p := 0x24 }) (fun t => (t.pc, t.p, t.cycles)) =
      some (0xC007, 0x24, 10) := by decide +kernel

/-- BR7. -/
theorem test_bpl_not_taken :
    after ({ start [0x10, 0x05] with p := 0xA4 }) (fun t => (t.pc, t.cycles)) =
      some (0xC002, 9) := by decide +kernel

/-- BR8. -/
theorem test_bvc_taken :
    after ({ start [0x50, 0x05] with p := 0x24 }) (fun t => (t.pc, t.p, t.cycles)) =
      some (0xC007, 0x24, 10) := by decide +kernel

/-- R185 and the rule of the branch. -/
theorem test_bvc_not_taken :
    after ({ start [0x50, 0x05] with p := 0x64 }) (fun t => (t.pc, t.cycles)) =
      some (0xC002, 9) := by decide +kernel

/-- BR9. -/
theorem test_bvs_taken :
    after ({ start [0x70, 0x05] with p := 0x64 }) (fun t => (t.pc, t.p, t.cycles)) =
      some (0xC007, 0x64, 10) := by decide +kernel

/-- R185 and the rule of the branch. -/
theorem test_bvs_not_taken :
    after ({ start [0x70, 0x05] with p := 0x24 }) (fun t => (t.pc, t.cycles)) =
      some (0xC002, 9) := by decide +kernel

/-- BR14. -/
theorem test_branch_other_page :
    after (start [0x50, 0x80]) (fun t => (t.pc, t.cycles)) =
      some (0xBF82, 11) := by decide +kernel

/-- SF2. -/
theorem test_pha_wraps :
    after ({ start [0x48] with a := 0x01, sp := 0x00 }) (fun t => (t.sp, t.ram, t.cycles)) =
      some (0xFF, [(0x100, 0x01)], 10) := by decide +kernel

/-- SF4. -/
theorem test_php :
    after ({ start [0x08] with p := 0xA5, sp := 0xFF }) (fun t => (t.sp, t.p, t.ram)) =
      some (0xFE, 0xA5, [(0x1FF, 0xB5)]) := by decide +kernel

/-- SF6. -/
theorem test_pla :
    after (State.poke ({ start [0x68] with sp := 0xFF }) 0x100 0x80) (fun t => (t.a, t.p, t.sp, t.cycles)) =
      some (0x80, 0xA4, 0x00, 11) := by decide +kernel

/-- SF7. -/
theorem test_plp_all_ones :
    after (State.poke (start [0x28]) 0x1FE 0xFF) (fun t => (t.p, t.sp, t.cycles)) =
      some (0xEF, 0xFE, 11) := by decide +kernel

/-- SF8. -/
theorem test_plp_zero : after (start [0x28]) (fun t => (t.p)) = some (0x20) := by decide +kernel

/-- SF10. -/
theorem test_clc :
    after ({ start [0x18] with p := 0x25 }) (fun t => (t.p, t.cycles)) =
      some (0x24, 9) := by decide +kernel

/-- SF11. -/
theorem test_sec : after (start [0x38]) (fun t => (t.p)) = some (0x25) := by decide +kernel

/-- SF12. -/
theorem test_cli : after (start [0x58]) (fun t => (t.p)) = some (0x20) := by decide +kernel

/-- SF13. -/
theorem test_sei : after ({ start [0x78] with p := 0x20 }) (fun t => (t.p)) = some (0x24) := by decide +kernel

/-- SF14. -/
theorem test_clv : after ({ start [0xB8] with p := 0x64 }) (fun t => (t.p)) = some (0x24) := by decide +kernel

/-- SF15. -/
theorem test_cld : after ({ start [0xD8] with p := 0x2C }) (fun t => (t.p)) = some (0x24) := by decide +kernel

/-- SF16. -/
theorem test_sed : after (start [0xF8]) (fun t => (t.p)) = some (0x2C) := by decide +kernel

/-- SF17. -/
theorem test_nop : after (start [0xEA]) (fun t => (t.pc, t.p, t.cycles)) = some (0xC001, 0x24, 9) := by decide +kernel

/-- SF20. -/
theorem test_illegal :
    after ({ start [0xEB, 0xFF] with a := 0x40 }) (fun t => (t.pc, t.a, t.p, t.cycles)) =
      some (0xC001, 0x40, 0x24, 9) := by decide +kernel

/-! Interrupts and the NMI (95_test_vectors.md 2.7, 2.8). -/

/-- The start state with a level on `irq_line`. -/
def withIrq (s : State) (b : Bool) : State := { s with env := { s.env with irqLine := some b } }

/-- IN1. -/
theorem test_irq_entry :
    after (withIrq { start [0xEA] with p := 0x20 } true) (fun t => (t.pc, t.p, t.ram, t.cycles)) =
      some (0xD000, 0x24, [(0x1FB, 0x20), (0x1FD, 0xC0)], 14) := by decide +kernel

/-- IN2. -/
theorem test_irq_masked :
    after (withIrq (start [0xEA]) true) (fun t => (t.pc, t.cycles)) =
      some (0xC001, 9) := by decide +kernel

/-- IN4. -/
theorem test_nmi_first :
    after (withIrq { start [0xEA] with p := 0x20, nmiPending := true } true) (fun t => (t.pc, t.p, t.nmiPending)) =
      some (0xC100, 0x24, false) := by decide +kernel

/-- IN6, its first step. -/
theorem test_stall_first :
    after ({ start [0xEA] with stall := 3, nmiPending := true }) (fun t => (t.pc, t.stall, t.nmiPending, t.cycles)) =
      some (0xC000, 2, true, 8) := by decide +kernel

/-- NT1: two global steps after reset with `nmi_output` set, the NMI is pending. -/
theorem test_nmi_delay :
    afterSteps 2 { start [0xEA, 0xEA] with ppu := { (start []).ppu with nmiOutput := true } }
      (fun t => (t.pc, t.cycles, t.ppu.nmiOccurred, t.ppu.nmiPrev, t.ppu.nmiDelay, t.nmiPending)) =
      some (0xC002, 11, true, true, 0, true) := by decide +kernel

/-- NT3, its first two steps: the status read cancels the NMI. -/
theorem test_nmi_cancelled :
    afterSteps 2 { start [0xEA, 0xAD, 0x02, 0x20] with ppu := { (start []).ppu with nmiOutput := true } }
      (fun t => (t.a, t.p, t.ppu.nmiOccurred, t.ppu.nmiPrev, t.ppu.nmiDelay, t.nmiPending)) =
      some (0x80, 0xA4, false, false, 0, false) := by decide +kernel

/-! Memory, DMA, ports (95_test_vectors.md 2.1, 2.9, 2.10). -/

/-- MM3, MM4, MM7: a write of $3FFA reaches port $2002, and leaves its byte in the latch. -/
theorem test_latch :
    let s := memWrite 0x3FFA 0x15 (start [])
    (memRead 0x3456 s).1 = 0x15 ∧ (memRead 0x4014 s).1 = 0x15 ∧ s.ppu = { (start []).ppu with ioLatch := 0x15 } := by
  decide +kernel

/-- MM11. -/
theorem test_read16Wrap :
    (read16Wrap 0x02FF (State.poke (State.poke (State.poke (start []) 0x2FF 0x34) 0x200 0x12) 0x300 0x56)).1 = 0x1234 := by
  decide +kernel

/-- The table of `MirrorAddress` in 2.1. -/
theorem test_mirrorAddress :
    [0x2000, 0x23FF, 0x2400, 0x2800, 0x2C00, 0x2FFF, 0x3000, 0x3EFF].map
        (fun a => [Mirroring.horizontal, .vertical, .single0, .single1].map (fun m => mirrorAddress m a)) =
      [[0, 0, 0, 1024], [1023, 1023, 1023, 2047], [0, 1024, 0, 1024], [1024, 0, 0, 1024], [1024, 1024, 0, 1024],
       [2047, 2047, 1023, 2047], [0, 0, 0, 1024], [1791, 1791, 767, 1791]] := by decide +kernel

/-- DM1. -/
theorem test_dma_odd :
    after ({ start [0x8D, 0x14, 0x40] with a := 0x02 }) (fun t => (t.stall, t.cycles)) =
      some (514, 11) := by decide +kernel

/-- DM3, on the four bytes it names. -/
theorem test_dma_order :
    after
      (State.poke (State.poke (State.poke (State.poke
        { start [0x8D, 0x14, 0x40] with a := 0x03, cycles := 100, ppu := { (start []).ppu with oamAddr := 0x10 } }
        0x300 0x01) 0x301 0x04) 0x3F0 0xD1) 0x3FF 0xFE)
      (fun t =>
        (t.ppu.oam.read 0x10, t.ppu.oam.read 0x11, t.ppu.oam.read 0x0F, t.ppu.oam.read 0x00, t.ppu.oamAddr, t.stall)) =
      some (0x01, 0x04, 0xFE, 0xD1, 0x10, 513) := by decide +kernel

/-- PR1. -/
theorem test_scroll_and_address :
    let g1 := portWrite 5 0x5E (portWrite 5 0x7D (video [] id))
    let g2 := portWrite 6 0xF0 (portWrite 6 0x3D g1)
    g1.ppu.t = 0x616F ∧ g1.ppu.x = 5 ∧ g1.ppu.w = false ∧ g2.ppu.t = 0x3DF0 ∧ g2.ppu.v = 0x3DF0 := by decide +kernel

/-- PR3. -/
theorem test_status_read :
    let g := video [] (fun p => { p with nmiOccurred := true, spriteZeroHit := true, ioLatch := 0xFF, w := true })
    (portRead 2 g).1 = 0xDF ∧ (portRead 2 g).2.ppu.w = false ∧ (portRead 2 (portRead 2 g).2).1 = 0x5F := by decide +kernel

/-- PR8. -/
theorem test_oam_data :
    let g := portWrite 4 0xCC (portWrite 4 0xBB (portWrite 4 0xAA (portWrite 3 0xFE (video [] id))))
    g.ppu.oam = [(0x00, 0xCC), (0xFE, 0xAA), (0xFF, 0xBB)] ∧ g.ppu.oamAddr = 1 ∧
    (portRead 4 (video [] fun p => { p with oam := [(2, 0xFF)], oamAddr := 2 })).1 = 0xE3 ∧
    (portRead 4 (video [] fun p => { p with oam := [(3, 0xFF)], oamAddr := 3 })).1 = 0xFF := by decide +kernel

/-- PR9. -/
theorem test_palette_fold :
    let g := portWrite 7 0x21 (video [] fun p => { p with v := 0x3F10 })
    g.ppu.palette = [(0, 0x21)] ∧ (portRead 7 { g with ppu := { g.ppu with v := 0x3F00 } }).1 = 0x21 := by decide +kernel

/-- PR11, PR12. -/
theorem test_data_increment :
    (portWrite 7 0x02 (portWrite 7 0x01 (portWrite 0 0x04 (video [] fun p => { p with v := 0x2000 })))).ppu.nametable =
        [(0, 0x01), (32, 0x02)] ∧
    (portWrite 7 0x77 (video [] fun p => { p with v := 0x7FFF })).ppu.palette = [(31, 0x77)] ∧
    (portWrite 7 0x77 (video [] fun p => { p with v := 0x7FFF })).ppu.v = 0 := by decide +kernel

/-- PR14. -/
theorem test_buffered_read :
    let g := video [(0x123, 0x5A), (0x124, 0xA5)] (fun p => { p with v := 0x0123, bufferedData := 0xEE })
    (portRead 7 g).1 = 0xEE ∧ (portRead 7 (portRead 7 g).2).1 = 0x5A ∧
    (portRead 7 (portRead 7 (portRead 7 g).2).2).1 = 0xA5 := by decide +kernel

/-! The PPU (95_test_vectors.md 2.11, 2.12). -/

/-- Scanline, dot, frame count and `f` after a tick. -/
def ticked (y x : Nat) (f : Bool) (mask : Byte) : Nat × Nat × Nat × Bool :=
  let p := tick (writeMask mask { (start []).ppu with scanline := y, cycle := x, f := f })
  (p.scanline, p.cycle, p.frame, p.f)

/-- TK1, TK4 to TK8. -/
theorem test_tick :
    ticked 240 340 false 0 = (241, 0, 0, false) ∧ ticked 261 340 false 0 = (0, 0, 1, true) ∧
    ticked 261 339 true 0x08 = (0, 0, 1, false) ∧ ticked 261 339 false 0x08 = (261, 340, 0, false) ∧
    ticked 261 339 true 0 = (261, 340, 0, true) ∧ ticked 261 340 true 0x08 = (0, 0, 1, false) := by decide +kernel

/-- The table of scroll increments and copies in 2.12. -/
theorem test_scroll :
    [0x0000, 0x001F, 0x041F, 0x7BFF, 0x7FFF].map incrementX = [0x0001, 0x0400, 0x0000, 0x7FE0, 0x7BE0] ∧
    [0x0000, 0x6000, 0x7000, 0x7020, 0x73A0, 0x7BA0, 0x73E0, 0x7FFF].map incrementY =
      [0x1000, 0x7000, 0x0020, 0x0040, 0x0800, 0x0000, 0x0000, 0x0C1F] ∧
    copyX 0x7FFF 0 = 0x7BE0 ∧ copyY 0x7FFF 0 = 0x041F ∧ copyX 0 0x7FFF = 0x041F ∧ copyY 0 0x7FFF = 0x7BE0 := by
  decide +kernel

/-- The table of fetch addresses in 2.12. -/
theorem test_fetch_addresses :
    [0x0000, 0x0042, 0x03BF, 0x0C00, 0x2ABC, 0x7FFF].map
        (fun v => (nametableAddress v, attributeAddress v, attributeShift v, fineY v)) =
      [(0x2000, 0x23C0, 0, 0), (0x2042, 0x23C0, 6, 0), (0x23BF, 0x23FF, 2, 0), (0x2C00, 0x2FC0, 0, 0),
       (0x2ABC, 0x2BEF, 0, 2), (0x2FFF, 0x2FFF, 6, 7)] ∧
    tileAddress
      { (start []).ppu with control := { Control.zero with backgroundTable := true }, nametableByte := 0x12, v := 0x3000 } =
      0x1123 := by decide +kernel

/-- The address of row `row` of a sprite of tile `tile` and attributes `attr`. -/
def spriteRow (size table : Bool) (tile attr : Byte) (row : Nat) : Addr :=
  spriteAddress
    { (start []).ppu with
      control := { Control.zero with spriteSize := size, spriteTable := table }, oam := [(1, tile), (2, attr)] } 0 row

/-- The table of sprite addresses in 2.12. -/
theorem test_sprite_addresses :
    spriteRow false false 0x12 0x00 3 = 0x0123 ∧ spriteRow false true 0x12 0x80 3 = 0x1124 ∧
    spriteRow true false 0x03 0x00 9 = 0x1031 ∧ spriteRow true false 0x03 0x80 9 = 0x1026 ∧
    spriteRow true true 0x02 0x00 0 = 0x0020 ∧ spriteRow true false 0xFF 0x00 15 = 0x1FF7 := by decide +kernel

/-- Pattern decode in 2.12. -/
theorem test_sprite_pixels :
    spritePixels 0x01 0b10110000 0b11000001 = 0x76554446 ∧ spritePixels 0x41 0b10110000 0b11000001 = 0x64445567 := by
  decide +kernel

/-- Program 5, dot (261, 328): the tile row 1 1 1 1 2 2 2 2 of palette 3. -/
theorem test_store_tile :
    (storeTileData { (start []).ppu with attributeByte := 0x0C, lowTileByte := 0xF0, highTileByte := 0x0F }).tileData =
      0x00000000DDDDEEEE := by decide +kernel

/-- Program 5, dot (0, 257): one sprite on line 0. -/
theorem test_sprite_evaluation :
    let oam := (List.range 63).map (fun k => (4 * (k + 1), (0xF0 : Byte)))
    let g := evaluateSprites
      (video ((List.range 8).map fun k => (0x020 + k, 0xFF)) fun p =>
        { p with scanline := 0, oam := [(1, 0x02), (3, 0x02)] ++ oam })
    g.ppu.spriteCount = 1 ∧ g.ppu.spriteOverflow = false ∧ g.ppu.sprites[0] = ⟨0x11111111, 2, false, 0⟩ := by
  decide +kernel

/-- Program 5, dot (0, 1): the first pixel has colour index 13; then the buffer shifts. -/
theorem test_pixel :
    let g := ppuStep (video [] fun p =>
      { writeMask 0x1E p with scanline := 0, cycle := 0, tileData := 0xDDDDEEEECCCCCCCC, palette := [(13, 0x11)] })
    Grid.read g.ppu.back 0 0 = 0x11 ∧ g.ppu.tileData = 0xDDDEEEECCCCCCCC0 := by decide +kernel

/-- Program 5, dot (1, 3): opaque background under opaque sprite 0. -/
theorem test_sprite_zero_hit :
    (renderPixel
      { writeMask 0x1E (start []).ppu with
        scanline := 1, cycle := 3, tileData := 0xDDDDEEEE00000000, spriteCount := 1
        sprites := Vector.replicate 8 ⟨0x11111111, 2, false, 0⟩ }).spriteZeroHit = true := by decide +kernel

/-- FP5: the first frame is handed over on the second dot after power-on. -/
theorem test_first_vertical_blank :
    (ppuSteps 1 (video [] id)).ppu.framesSent = 0 ∧ (ppuSteps 2 (video [] id)).ppu.framesSent = 1 ∧
    (ppuSteps 2 (video [] id)).ppu.nmiOccurred = true := by decide +kernel

/-! Reset, the step, and the word the host lays where the next step fetches (R360, R361; log entries 2, 5). -/

/-- RS1, on fields it names: the CPU's registers, and that `A` and the stack bytes stay. -/
theorem test_reset :
    let s := hostReset { State.poke (start []) 0x1F0 0x77 with a := 0x12, sp := 0xF0, p := 0xE3, cycles := 99, stall := 4 }
    (s.a, s.pc, s.sp, s.p, s.cycles, s.stall) = (0x12, 0xC000, 0xFD, 0x24, 7, 0) ∧ s.ram = [(0x1F0, 0x77)] := by
  decide +kernel

/-- RS1 and RS2, on the PPU. -/
theorem test_reset_ppu :
    let p := resetPpu { (start []).ppu with t := 0x7FFF, nmiOccurred := true, nmiOutput := true, nmiPrev := true, oamAddr := 9 }
    (p.scanline, p.cycle, p.t, p.nmiOutput, p.nmiOccurred, p.nmiPrev, p.oamAddr) = (240, 340, 0x73FF, false, true, false, 0) := by
  decide +kernel

/-- Program 1, its first line: a step is the instruction, then three dots for each of its cycles. -/
theorem test_step :
    afterSteps 1 (start [0xA2, 0x0A]) (fun t => (t.pc, t.x, t.p, t.cycles, t.ppu.scanline, t.ppu.cycle)) =
      some (0xC002, 0x0A, 0x24, 9, 241, 5) := by decide +kernel

/-- A requested reset takes the place of one global step (log entry 5). -/
theorem test_step_serves_reset :
    afterSteps 1 { start [0xEA] with a := 0x12, cycles := 99, env := { (start [0xEA]).env with resetRequested := true } }
      (fun t => (t.a, t.cycles, t.env.resetRequested)) = some (0x12, 7, false) := by decide +kernel

/-- After reset the step runs the word laid by `withFetchWord`: LDA #$80, and JSR $0000 with its operand bits 0. -/
theorem test_withFetchWord :
    afterSteps 1 (State.reset.withFetchWord 16 0x80A9) (fun t => (t.a, t.p, t.pc)) = some (0x80, 0xA4, 0x8002) ∧
    afterSteps 1 (State.reset.withFetchWord 8 0x20) (fun t => (t.pc, t.sp)) = some (0x0000, 0xFB) := by decide +kernel

/-! Witnesses: for each statement of Obligations.lean with hypotheses, a state and operands that meet them, at the
boundary values of each clause. -/

/-- A state whose counters stand at their bounds. -/
def atBounds : State :=
  { start [0xEA] with
    ppu :=
      { (start []).ppu with
        scanline := 261, cycle := 340, spriteCount := 8, nmiDelay := 2, nmiOutput := true, nmiOccurred := true
        nmiPrev := true, attributeByte := 0x0C, palette := [(31, 0x3F)], oam := [(255, 1)], front := [(239, [(255, 1)])] } }

theorem inv_of {s : State} (status : s.p.getLsbD 4 = false ∧ s.p.getLsbD 5 = true)
    (bounds : s.ppu.scanline ≤ 261 ∧ s.ppu.cycle ≤ 340 ∧ s.ppu.spriteCount ≤ 8 ∧ s.ppu.nmiDelay ≤ 2)
    (latches : s.ppu.attributeByte &&& 0xF3 = 0 ∧ s.ppu.nmiPrev = s.ppu.nmiLevel)
    (palette :
      Cells.find? s.ppu.palette 16 = none ∧ Cells.find? s.ppu.palette 20 = none ∧
        Cells.find? s.ppu.palette 24 = none ∧ Cells.find? s.ppu.palette 28 = none)
    (memories : Memory.wf 2048 s.ram ∧ Memory.wf 32 s.ppu.palette ∧ Memory.wf 2048 s.ppu.nametable ∧ Memory.wf 256 s.ppu.oam)
    (frames : Grid.wf s.ppu.front ∧ Grid.wf s.ppu.back)
    (images : Image.wf 65536 s.env.prg ∧ Image.wf 8192 s.env.chr ∧ Image.wf 65536 s.env.io) : s.Inv :=
  ⟨status, bounds, latches.1, latches.2, palette, memories.1,
    ⟨memories.2.1, memories.2.2.1, memories.2.2.2, frames.1, frames.2⟩, images.1, images.2.1, images.2.2⟩

/-- StepKeepsStatusBits, StepKeepsPpuRegisters, StepKeepsMemories: their premises are the parts of `State.Inv`. -/
theorem witness_StepKeeps : ∃ s t, s.Inv ∧ step s = .next t := by
  obtain ⟨t, h⟩ := exists_next (r := step (start [0xEA])) (by decide +kernel)
  refine ⟨_, t, inv_of ?_ ?_ ?_ ?_ ?_ ?_ ?_, h⟩ <;> decide +kernel

/-- The same at the bounds of every counter. -/
theorem witness_StepKeeps_at_bounds : ∃ t, atBounds.Inv ∧ step atBounds = .next t := by
  obtain ⟨t, h⟩ := exists_next (r := step atBounds) (by decide +kernel)
  refine ⟨t, inv_of ?_ ?_ ?_ ?_ ?_ ?_ ?_, h⟩ <;> decide +kernel

/-- CpuStepTakesItsArmsInOrder (second clause) and GlobalStepRunsThreeDotsPerCycle. -/
theorem witness_CpuStep : ∃ t, cpuStep (start [0xEA]) = .next t := exists_next (by decide +kernel)

theorem witness_StallLastsItsCount :
    ({ start [0xEA] with stall := 514 } : State).stall = 514 ∧ (start [0xEA]).env.resetRequested = false ∧
      (start [0xEA]).stall = 0 := by decide +kernel

/-- A one-byte and a three-byte instruction, IRQ masked; then IRQ unmasked and not asserted. -/
theorem witness_StepRunsDecodedInstruction :
    (∃ t,
      let s := start [0xEA]
      s.env.resetRequested = false ∧ s.stall = 0 ∧ s.nmiPending = false ∧ flagI s.p = true ∧
        decode (readBytes 1 s.pc { s with env := (irqSample s.env).2 }).1 = .ok (.nop, []) ∧
        exec .nop (readBytes 1 s.pc { s with env := (irqSample s.env).2 }).2 = .next t) ∧
    ∃ t,
      let s : State := { start [0x8D, 0x06, 0x20] with p := 0x20 }
      s.env.resetRequested = false ∧ s.stall = 0 ∧ s.nmiPending = false ∧ (irqSample s.env).1 = false ∧
        decode (readBytes 3 s.pc { s with env := (irqSample s.env).2 }).1 = .ok (.sta (.abs 0x2006), []) ∧
        exec (.sta (.abs 0x2006)) (readBytes 3 s.pc { s with env := (irqSample s.env).2 }).2 = .next t := by
  have h1 : (readBytes 1 (start [0xEA]).pc { start [0xEA] with env := (irqSample (start [0xEA]).env).2 }).1 = [0xEA] := by
    decide +kernel
  have h2 :
      (readBytes 3 (start [0x8D, 0x06, 0x20]).pc
        { start [0x8D, 0x06, 0x20] with p := 0x20, env := (irqSample (start [0x8D, 0x06, 0x20]).env).2 }).1 =
        [0x8D, 0x06, 0x20] := by decide +kernel
  exact
    ⟨⟨_, by decide +kernel, by decide +kernel, by decide +kernel, by decide +kernel, by rw [h1]; rfl, rfl⟩,
      _, by decide +kernel, by decide +kernel, by decide +kernel, by decide +kernel,
      (congrArg decode h2).trans rfl, rfl⟩

theorem witness_DecodeReadsBackEveryEncoding :
    Instr.wellFormed (.lda (.mem (.absX 0xFFFF))) = true ∧ Instr.wellFormed (.illegal 0xFF) = true ∧
      Instr.wellFormed (.bvs 0x80) = true := by decide

theorem witness_EncodeReadsBackEveryDecoding : decode [0x4C, 0xFF, 0xFF, 0x00] = .ok (.jmp (.abs 0xFFFF), [0x00]) := rfl

theorem witness_IllegalOpcodesAreThose105 :
    0x02 ∈ illegalOpcodes ∧ 0xFF ∈ illegalOpcodes ∧ 0x00 ∉ illegalOpcodes ∧ 0xFE ∉ illegalOpcodes := by decide

/-- Both ends of the opcode bytes; a penalty opcode that crosses a page, and one that does not. -/
theorem witness_CycleCostOfEveryOpcode :
    (0x00 : Byte).toNat % 32 ≠ 16 ∧ (0xFF : Byte).toNat % 32 ≠ 16 ∧
    (0x1D : Byte).toNat ∈ penaltyOpcodes ∧
    pageCrossed (penaltyOperand 0x1D 0xFF 0x12) { start [] with x := 0x01 } = true ∧
    pageCrossed (penaltyOperand 0x1D 0xFF 0x12) { start [] with x := 0x00 } = false := by decide +kernel

theorem witness_ReadsChangeOnlyPortState :
    (0x0000 : Addr).toNat < 0x2000 ∧ (0x1FFF : Addr).toNat < 0x2000 ∧ (0x4014 : Addr).toNat = 0x4014 := by decide

theorem witness_OamDmaCopiesThePage : (0 : Nat) < 256 ∧ 255 < 256 := by decide

theorem witness_ComparesAndBitSetFlagsOnly :
    MemOperand.isPlain (.zp 0xFF) = true ∧ MemOperand.isPlain (.abs 0xFFFF) = true := by decide

theorem witness_DecimalFlagIsIgnored :
    ∃ (i : ReadOperand → Instr) (t : State), (i = .adc ∨ i = .sbc) ∧ exec (i (.imm 0x01)) (start []) = .next t :=
  ⟨.sbc, _, .inr rfl, rfl⟩

theorem witness_ShiftsAndReadModifyWrite :
    MemOperand.isX (.zp 0) = true ∧ MemOperand.isX (.zpX 0xFF) = true ∧ MemOperand.isX (.abs 0) = true ∧
      MemOperand.isX (.absX 0xFFFF) = true := by decide

theorem witness_StackRoundTrips : (start []).statusOk ∧ EntryKind.nmi ≠ .brk ∧ EntryKind.irq ≠ .brk :=
  ⟨⟨by decide +kernel, by decide +kernel⟩, by decide, by decide⟩

theorem witness_StatusReadAnswersAndClears : 0 < 5 ∧ 4 < 5 ∧ 0 ∈ [0, 1, 3, 5, 6] ∧ 6 ∈ [0, 1, 3, 5, 6] := by decide

/-- Both values of `w`; the first is the premise of the four writes too. -/
theorem witness_ScrollAndAddressWrites :
    (video [] id).ppu.w = false ∧ (video [] fun p => { p with w := true }).ppu.w = true := by decide +kernel

/-- Both sides of the palette's start, in the first and the second copy of the PPU's space. -/
theorem witness_DataPortReadsAndWrites :
    (0x3EFF : BitVec 15).toNat % 0x4000 < 0x3F00 ∧ ¬(0x3F00 : BitVec 15).toNat % 0x4000 < 0x3F00 ∧
    (0x7EFF : BitVec 15).toNat % 0x4000 < 0x3F00 ∧ ¬(0x7FFF : BitVec 15).toNat % 0x4000 < 0x3F00 := by decide

/-- Both ends of each range of NametablesAndPaletteFold, and index pairs of its last clause. -/
theorem witness_NametablesAndPaletteFold :
    (0 < 4 ∧ 3 < 4) ∧ (0 < 0x0400 ∧ 0x03FF < 0x0400) ∧ (0 < 32 ∧ 31 < 32) ∧
    (16 ≤ 16 ∧ 16 % 4 = 0) ∧ (16 ≤ 28 ∧ 28 % 4 = 0 ∧ 28 < 32) ∧
    (0 % 16 ≠ 31 % 16) ∧ (1 ≠ 17 ∧ 1 % 4 ≠ 0) := by decide

/-- The four corners of the counters, and the dot an odd frame skips. -/
theorem witness_TickCountsDots :
    ((start []).ppu.cycle ≤ 340 ∧ (start []).ppu.scanline ≤ 261) ∧ (0 ≤ 340 ∧ 0 ≤ 261) ∧
    (atBounds.ppu.cycle ≤ 340 ∧ atBounds.ppu.scanline ≤ 261) ∧ 261 * 341 + 340 = 89341 := by decide +kernel

/-- Both premises, and both ends of each range of dots, for a frame of either length. -/
theorem witness_FullPassCountsOneFrame :
    (let g := video [] fun p => { p with cycle := 0, scanline := 0 }
     g.ppu.cycle = 0 ∧ g.ppu.scanline = 0) ∧
    (let g := video [] fun p => { writeMask 0x18 p with cycle := 340, scanline := 261 }
     g.ppu.cycle = 340 ∧ g.ppu.scanline = 261 ∧ g.ppu.rendering = true ∧ g.ppu.f = false) ∧
    (0 < 82182 ∧ 82181 < 82182) ∧ (82182 ≤ 82182 ∧ 89342 ≤ 89342) ∧ (89340 < 89341 ∧ 89341 ≤ 89342) := by decide +kernel

theorem witness_NmiEdgeIsDelayedAndRetested : atBounds.ppu.nmiDelay = 2 ∧ atBounds.nmiPending = false := by
  decide +kernel

/-- The premise, and both ends of the two ranges of bits. -/
theorem witness_TileRowEntersTheBuffer :
    atBounds.ppu.attributeOk ∧ (32 ≤ 32 ∧ 32 ≤ 63) ∧ (0 < 8 ∧ 7 < 8) :=
  ⟨show (_ : Byte) = 0 by decide +kernel, by decide, by decide⟩

/-- All 64 sprites in range (the last slot is filled), and none in range (the first slot is kept). -/
theorem witness_SpriteEvaluationFillsSlots :
    (let p := { (start []).ppu with scanline := 0 }
     let found := (List.range 64).filter fun i =>
       decide ((p.oam.read (4 * i)).toNat ≤ p.scanline ∧ p.scanline < (p.oam.read (4 * i)).toNat + 8)
     7 < 8 ∧ 7 < found.length) ∧
    (let p := (start []).ppu
     let found := (List.range 64).filter fun i =>
       decide ((p.oam.read (4 * i)).toNat ≤ p.scanline ∧ p.scanline < (p.oam.read (4 * i)).toNat + 8)
     0 < 8 ∧ found.length ≤ 0) := by decide +kernel

theorem witness_SpritePatternFetch :
    7 < (if (start []).ppu.control.spriteSize then 16 else 8) ∧
    15 < (if ({ Control.zero with spriteSize := true } : Control).spriteSize then 16 else 8) ∧ 0 < 8 ∧ 7 < 8 := by
  decide +kernel

/-- Sprites off; and sprites on, with slot 7 the first opaque one at its right-most column, and with none opaque. -/
theorem witness_LayersOfAPixel :
    (start []).ppu.mask.showSprites = false ∧
    (let p :=
      { writeMask 0x10 (start []).ppu with
        cycle := 8, spriteCount := 8, sprites := (Vector.replicate 8 ⟨0, 0, false, 0⟩).set 7 ⟨1, 0, false, 7⟩ }
     p.mask.showSprites = true ∧ p.spriteCount ≤ 8 ∧ 1 ≤ p.cycle ∧ 7 < p.spriteCount ∧
       (slotPixel p 7).toNat % 4 ≠ 0 ∧ ∀ j, j < 7 → (slotPixel p j).toNat % 4 = 0) ∧
    (let p := { writeMask 0x10 (start []).ppu with cycle := 1, spriteCount := 8 }
     p.mask.showSprites = true ∧ p.spriteCount ≤ 8 ∧ 1 ≤ p.cycle ∧
       ∀ i, i < p.spriteCount → (slotPixel p i).toNat % 4 = 0) := by decide +kernel

/-- The premise; then both ends of the fetch windows, on a visible and on the pre-render line; then the two ends of the
dots that copy Y, and dot 257. -/
theorem witness_RenderingDotsRunTheirUnits :
    (writeMask 0x08 (start []).ppu).rendering = true ∧
    (let at' (y x : Nat) := tick { writeMask 0x08 (start []).ppu with scanline := y, cycle := x }
     ((at' 0 0).scanline < 240 ∧ (at' 0 0).cycle = 1) ∧ ((at' 239 255).scanline < 240 ∧ (at' 239 255).cycle = 256) ∧
     ((at' 261 0).scanline = 261 ∧ (at' 261 0).cycle = 1) ∧
     (321 ≤ (at' 239 320).cycle ∧ (at' 239 335).cycle ≤ 336) ∧
     ((at' 261 279).scanline = 261 ∧ 280 ≤ (at' 261 279).cycle) ∧ (at' 261 303).cycle ≤ 304 ∧
     (at' 0 256).cycle = 257 ∧ (at' 240 256).cycle = 257 ∧ (at' 261 256).cycle = 257) := by decide +kernel

/-- The premise, and both ends of the visible dots. -/
theorem witness_RenderingDisabledDrawsBackdrop :
    (start []).ppu.rendering = false ∧
    (let t := tick { (start []).ppu with scanline := 0, cycle := 0 }
     t.scanline < 240 ∧ 1 ≤ t.cycle ∧ t.cycle ≤ 256) ∧
    (let t := tick { (start []).ppu with scanline := 239, cycle := 255 }
     t.scanline < 240 ∧ 1 ≤ t.cycle ∧ t.cycle ≤ 256) := by decide +kernel

/-- The dots of the second and third clause. -/
theorem witness_VerticalBlankBeginsAndEnds :
    (let t := tick { (start []).ppu with scanline := 241, cycle := 0 }
     t.scanline = 241 ∧ t.cycle = 1) ∧
    (let t := tick { (start []).ppu with scanline := 261, cycle := 0 }
     t.scanline = 261 ∧ t.cycle = 1) := by decide +kernel

/-- One state for each clause of IdleDotsOnlyMoveTheCounters, at ends of its ranges. -/
theorem witness_IdleDotsOnlyMoveTheCounters :
    (let t := tick { (start []).ppu with scanline := 239, cycle := 340 }
     240 ≤ t.scanline ∧ t.scanline ≤ 260 ∧ ¬(t.scanline = 241 ∧ t.cycle = 1) ∧ t.cycle ≠ 257) ∧
    (let t := tick { (start []).ppu with scanline := 260, cycle := 339 }
     240 ≤ t.scanline ∧ t.scanline ≤ 260 ∧ ¬(t.scanline = 241 ∧ t.cycle = 1) ∧ t.cycle ≠ 257) ∧
    (let t := tick { (start []).ppu with scanline := 261, cycle := 340 }
     t.cycle = 0 ∧ t.scanline < 240) ∧
    (let t := tick { (start []).ppu with scanline := 239, cycle := 257 }
     (258 ≤ t.cycle ∧ t.cycle ≤ 320) ∧ t.scanline < 240) ∧
    (let t := tick { (start []).ppu with scanline := 261, cycle := 304 }
     (258 ≤ t.cycle ∧ t.cycle ≤ 320) ∧ t.scanline = 261 ∧ ¬(280 ≤ t.cycle ∧ t.cycle ≤ 304)) ∧
    (let t := tick { (start []).ppu with scanline := 261, cycle := 336 }
     337 ≤ t.cycle ∧ t.scanline = 261 ∧ ¬(280 ≤ t.cycle ∧ t.cycle ≤ 304)) := by decide +kernel

end Sys2Proof.Machine.Tests
end

namespace Sys2Proof.Machine

/-! A transition (R8): which of its two arms a step takes is the request bit's to say (log entry 5). -/

theorem step_of_resetRequested {s : State} (h : s.env.resetRequested = true) : step s = .next (serveReset s) :=
  if_pos h

theorem step_of_not_resetRequested {s : State} (h : s.env.resetRequested = false) : step s = globalStep s :=
  if_neg (by simp [h])

/-- The served reset is `Reset` (R334) after the request has been cleared. -/
theorem serveReset_eq_hostReset (s : State) :
    serveReset s = hostReset { s with env := { s.env with resetRequested := false } } := rfl

/-- Settles O4, by cases on the request bit: one lemma for each arm of the transition. -/
theorem stepServesResetOrRunsGlobalStep : Obligations.StepServesResetOrRunsGlobalStep := by
  intro s
  cases h : s.env.resetRequested with
  | true => rw [step_of_resetRequested h, serveReset_eq_hostReset, if_pos rfl]
  | false => rw [step_of_not_resetRequested h, if_neg Bool.false_ne_true]

end Sys2Proof.Machine

namespace Sys2Proof.Machine

/-! The stored status (R15): which bytes are legal, and that every flag computation answers a legal byte for one. -/

section Status

/-- A stored status byte has `B = 0` and `U = 1` (R15): what `State.statusOk` says of `P`. -/
def statusLegal (p : Byte) : Prop := p.getLsbD 4 = false ∧ p.getLsbD 5 = true

theorem State.statusOk_iff (s : State) : s.statusOk ↔ statusLegal s.p := Iff.rfl

/-- Setting any other bit of the status leaves `B` and `U` alone. -/
theorem statusLegal_putBit {i : Nat} (hi : i < 8) (h4 : 4 ≠ i) (h5 : 5 ≠ i) (b : Bool) (p : Byte) :
    statusLegal (putBit i b p) ↔ statusLegal p := by
  simp only [statusLegal, getLsbD_putBit hi, if_neg h4, if_neg h5]

@[simp] theorem statusLegal_putC (b : Bool) (p : Byte) : statusLegal (putC b p) ↔ statusLegal p :=
  statusLegal_putBit (by decide) (by decide) (by decide) b p

@[simp] theorem statusLegal_putZ (b : Bool) (p : Byte) : statusLegal (putZ b p) ↔ statusLegal p :=
  statusLegal_putBit (by decide) (by decide) (by decide) b p

@[simp] theorem statusLegal_putI (b : Bool) (p : Byte) : statusLegal (putI b p) ↔ statusLegal p :=
  statusLegal_putBit (by decide) (by decide) (by decide) b p

@[simp] theorem statusLegal_putD (b : Bool) (p : Byte) : statusLegal (putD b p) ↔ statusLegal p :=
  statusLegal_putBit (by decide) (by decide) (by decide) b p

@[simp] theorem statusLegal_putV (b : Bool) (p : Byte) : statusLegal (putV b p) ↔ statusLegal p :=
  statusLegal_putBit (by decide) (by decide) (by decide) b p

@[simp] theorem statusLegal_putN (b : Bool) (p : Byte) : statusLegal (putN b p) ↔ statusLegal p :=
  statusLegal_putBit (by decide) (by decide) (by decide) b p

@[simp] theorem statusLegal_setZN (v p : Byte) : statusLegal (setZN v p) ↔ statusLegal p := by
  simp only [setZN, statusLegal_putN, statusLegal_putZ]

@[simp] theorem statusLegal_compareFlags (r m p : Byte) : statusLegal (compareFlags r m p) ↔ statusLegal p := by
  simp only [compareFlags, statusLegal_putN, statusLegal_putZ, statusLegal_putC]

@[simp] theorem statusLegal_bitTestFlags (a m p : Byte) : statusLegal (bitTestFlags a m p) ↔ statusLegal p := by
  simp only [bitTestFlags, statusLegal_putN, statusLegal_putV, statusLegal_putZ]

@[simp] theorem statusLegal_addWithCarry (a m p : Byte) : statusLegal (addWithCarry a m p).2 ↔ statusLegal p := by
  simp only [addWithCarry, statusLegal_setZN, statusLegal_putV, statusLegal_putC]

@[simp] theorem statusLegal_subtractWithBorrow (a m p : Byte) :
    statusLegal (subtractWithBorrow a m p).2 ↔ statusLegal p := statusLegal_addWithCarry a (m ^^^ 0xFF) p

@[simp] theorem statusLegal_logical (f : Byte → Byte → Byte) (a m p : Byte) :
    statusLegal (logical f a m p).2 ↔ statusLegal p := statusLegal_setZN (f a m) p

/-- The four shifts and rotates set the carry, then Z and N. -/
theorem statusLegal_setZN_putC (v : Byte) (c : Bool) (p : Byte) : statusLegal (setZN v (putC c p)) ↔ statusLegal p := by
  simp only [statusLegal_setZN, statusLegal_putC]

@[simp] theorem statusLegal_shiftLeft (old p : Byte) : statusLegal (shiftLeft old p).2 ↔ statusLegal p :=
  statusLegal_setZN_putC _ _ p

@[simp] theorem statusLegal_shiftRight (old p : Byte) : statusLegal (shiftRight old p).2 ↔ statusLegal p :=
  statusLegal_setZN_putC _ _ p

@[simp] theorem statusLegal_rotateLeft (old p : Byte) : statusLegal (rotateLeft old p).2 ↔ statusLegal p :=
  statusLegal_setZN_putC _ _ p

@[simp] theorem statusLegal_rotateRight (old p : Byte) : statusLegal (rotateRight old p).2 ↔ statusLegal p :=
  statusLegal_setZN_putC _ _ p

@[simp] theorem statusLegal_increment (old p : Byte) : statusLegal (increment old p).2 ↔ statusLegal p :=
  statusLegal_setZN _ p

@[simp] theorem statusLegal_decrement (old p : Byte) : statusLegal (decrement old p).2 ↔ statusLegal p :=
  statusLegal_setZN _ p

/-- What is pulled into the status has `B` cleared and `U` set (R15). -/
theorem pulledStatus_eq_putBit (b : Byte) : pulledStatus b = putBit 5 true (putBit 4 false b) := rfl

theorem statusLegal_resetP : statusLegal Config.resetP := ⟨by decide, by decide⟩

/-- Bits 4 and 5 are what a pull forces; the other bits of a pulled status are those of the byte pulled (R15). -/
theorem getLsbD_pulledStatus (b : Byte) (i : Nat) :
    (pulledStatus b).getLsbD i = if i = 5 then true else if i = 4 then false else b.getLsbD i := by
  rw [pulledStatus_eq_putBit, getLsbD_putBit (by decide), getLsbD_putBit (by decide)]

/-- A pulled status is legal whatever the byte pulled (R15). -/
@[simp] theorem statusLegal_pulledStatus (b : Byte) : statusLegal (pulledStatus b) :=
  ⟨getLsbD_pulledStatus b 4, getLsbD_pulledStatus b 5⟩

end Status

/-! The stored status over a step: an instruction writes `P` by a flag computation or by a pull. -/

theorem interruptEntry_p (k : EntryKind) (s : State) : (interruptEntry k s).p = putI true s.p := by
  rw [interruptEntry_eq]; rfl

theorem modifyMemory_statusOk {f : Byte → Byte → Byte × Byte} (hf : ∀ old p, statusLegal p → statusLegal (f old p).2)
    {m : MemOperand} {s t : State} (hs : s.statusOk) (e : modifyMemory f m s = .next t) : t.statusOk := by
  cases e
  exact hf _ _ (by simpa [State.statusOk_iff] using hs)

theorem modify_statusOk {f : Byte → Byte → Byte × Byte} (hf : ∀ old p, statusLegal p → statusLegal (f old p).2)
    {m : ShiftOperand} {s t : State} (hs : s.statusOk) (e : modify f m s = .next t) : t.statusOk := by
  cases m with
  | acc => cases e; exact hf _ _ hs
  | mem m => exact modifyMemory_statusOk hf hs e

theorem branchIf_statusOk {c : Bool} {off : Byte} {s t : State} (hs : s.statusOk) (e : branchIf c off s = .next t) :
    t.statusOk := by
  unfold branchIf at e
  cases c <;> cases e <;> exact hs

/-- Every instruction keeps the status legal (R15). -/
theorem exec_statusOk {i : Instr} {s t : State} (hs : s.statusOk) (e : exec i s = .next t) : t.statusOk := by
  have hread : ∀ o, statusLegal (readOperand o s).2.p := fun o => by simpa [readOperand_eq] using s.statusOk_iff.1 hs
  cases i with
  | lda m | ldx m | ldy m => cases e; exact (statusLegal_setZN _ _).2 (hread m)
  | sta m | stx m | sty m => cases e; simpa [State.statusOk_iff] using hs
  | tax | tay | txa | tya | tsx | inx | iny | dex | dey => cases e; exact (statusLegal_setZN _ _).2 hs
  | adc m => cases e; exact (statusLegal_addWithCarry _ _ _).2 (hread m)
  | sbc m => cases e; exact (statusLegal_subtractWithBorrow _ _ _).2 (hread m)
  | and m | ora m | eor m => cases e; exact (statusLegal_logical _ _ _ _).2 (hread m)
  | cmp m | cpx m | cpy m => cases e; exact (statusLegal_compareFlags _ _ _).2 (hread m)
  | bit m => cases e; exact (statusLegal_bitTestFlags _ _ _).2 (hread (.mem m))
  | asl m => exact modify_statusOk (fun old p => (statusLegal_shiftLeft old p).2) hs e
  | lsr m => exact modify_statusOk (fun old p => (statusLegal_shiftRight old p).2) hs e
  | rol m => exact modify_statusOk (fun old p => (statusLegal_rotateLeft old p).2) hs e
  | ror m => exact modify_statusOk (fun old p => (statusLegal_rotateRight old p).2) hs e
  | inc m => exact modifyMemory_statusOk (fun old p => (statusLegal_increment old p).2) hs e
  | dec m => exact modifyMemory_statusOk (fun old p => (statusLegal_decrement old p).2) hs e
  | jmp o =>
    cases o with
    | abs w => cases e; exact hs
    | ind w => cases e; simpa [State.statusOk_iff, read16Wrap] using hs
  | jsr w => cases e; simpa [State.statusOk_iff, pushWord_eq] using hs
  | rts => cases e; simpa [State.statusOk_iff, pullWord_eq] using hs
  | rti => cases e; simp [State.statusOk_iff, returnFromInterrupt, pullWord_eq]
  | brk => cases e; simpa [State.statusOk_iff, interruptEntry_p] using hs
  | bcc o | bcs o | beq o | bne o | bmi o | bpl o | bvc o | bvs o => exact branchIf_statusOk hs e
  | pha | php => cases e; simpa [State.statusOk_iff, push_eq] using hs
  | pla => cases e; simpa [State.statusOk_iff, pull_eq] using hs
  | plp => cases e; exact statusLegal_pulledStatus _
  | clc | sec => cases e; exact (statusLegal_putC _ _).2 hs
  | cli | sei => cases e; exact (statusLegal_putI _ _).2 hs
  | clv => cases e; exact (statusLegal_putV _ _).2 hs
  | cld | sed => cases e; exact (statusLegal_putD _ _).2 hs
  | txs | nop | illegal op => cases e; exact hs

@[simp] theorem fetch_p (s : State) : (fetch s).2.p = s.p := by
  unfold fetch
  dsimp only
  split <;> simp

@[simp] theorem nmiDelayTick_p (s : State) : (nmiDelayTick s).p = s.p := by
  unfold nmiDelayTick
  split <;> rfl

@[simp] theorem finishStep_p (c : Nat) (s : State) : (finishStep c s).p = s.p := nmiDelayTick_p _

/-- Each arm of a CPU step keeps the status legal (R305, R15). -/
theorem cpuStep_statusOk {s t : State} (hs : s.statusOk) (e : cpuStep s = .next t) : t.statusOk := by
  unfold cpuStep at e
  split at e
  · cases e; exact hs
  · split at e
    · cases e; simpa [State.statusOk_iff, interruptEntry_p] using hs
    · dsimp only at e
      split at e
      · cases e; simpa [State.statusOk_iff, interruptEntry_p] using hs
      · exact exec_statusOk (by simpa [State.statusOk_iff] using hs) e

/-- A global step that answers is a CPU step that answers, finished by its dots and the NMI countdown (R310). -/
theorem globalStep_eq_next {s t : State} (e : globalStep s = .next t) :
    ∃ u, cpuStep s = .next u ∧ t = finishStep s.cycles u := by
  unfold globalStep at e
  split at e
  · next u hu => cases e; exact ⟨u, hu, rfl⟩
  · cases e
  · cases e

/-- What a step does: it serves the requested reset, or it finishes a CPU step (R8, R310). -/
theorem step_cases {s t : State} (e : step s = .next t) :
    t = serveReset s ∨ ∃ u, cpuStep s = .next u ∧ t = finishStep s.cycles u := by
  cases h : s.env.resetRequested with
  | true => rw [step_of_resetRequested h] at e; cases e; exact .inl rfl
  | false => rw [step_of_not_resetRequested h] at e; exact .inr (globalStep_eq_next e)

/-- Settles O5: `Reset` writes a legal status, each arm of a CPU step keeps one, and the dots and the countdown do not
touch `P`. -/
theorem stepKeepsStatusBits : Obligations.StepKeepsStatusBits := by
  intro s t hs e
  rcases step_cases e with rfl | ⟨u, hu, rfl⟩
  · exact statusLegal_resetP
  · simpa [State.statusOk_iff] using cpuStep_statusOk hs hu

/-! One induction for an invariant of RAM, PPU and environment over whole steps: `BusKeeps` carries a property through
an instruction, so what is left is to check each device of the bus, one dot, the countdown, and `Reset`. -/

section StepKeeps

/-- Every device behind the CPU bus keeps the property: RAM (R54), the ports (R55), the OAM cursor of the DMA (R315),
the environment as it is read or sampled, and as it is written (R60 to R62). -/
structure DeviceKeeps (P : Memory → Ppu → Env → Prop) : Prop where
  ram : ∀ {m p e} (a : Addr) (b : Byte), P m p e → P (m.write (ramIndex a) b) p e
  portRead : ∀ {m} {g : Video} (n : Nat), P m g.ppu g.env → P m (portRead n g).2.ppu (portRead n g).2.env
  portWrite : ∀ {m} {g : Video} (n : Nat) (b : Byte),
    P m g.ppu g.env → P m (portWrite n b g).ppu (portWrite n b g).env
  oamData : ∀ {m p e} (b : Byte), P m p e → P m (writeOamData b p) e
  after : ∀ {m p e} (v : EnvEvent), P m p e → P m p (e.after v)
  ioWrite : ∀ {m p e} (a : Addr) (b : Byte), P m p e → P m p (ioWrite a b e)
  cartWrite : ∀ {m p e} (a : Addr) (b : Byte), P m p e → P m p (cartCpuWrite a b e)

variable {P : Memory → Ppu → Env → Prop}

theorem DeviceKeeps.memRead (h : DeviceKeeps P) (a : Addr) (s : State) (hs : s.on P) : (memRead a s).2.on P := by
  unfold Machine.memRead
  split
  · exact hs
  · split
    · exact h.portRead (portNumber a) hs
    · split
      · exact hs
      · split <;> exact h.after _ hs

theorem DeviceKeeps.dmaCopy (h : DeviceKeeps P) (page : Byte) (n i : Nat) (s : State) (hs : s.on P) :
    (dmaCopy page n i s).on P := by
  induction n generalizing i s with
  | zero => exact hs
  | succ n ih => exact ih (i + 1) _ (h.oamData _ (h.memRead _ s hs))

theorem DeviceKeeps.memWrite (h : DeviceKeeps P) (a : Addr) (b : Byte) (s : State) (hs : s.on P) :
    (memWrite a b s).on P := by
  unfold Machine.memWrite
  split
  · exact h.ram a b hs
  · split
    · exact h.portWrite (portNumber a) b hs
    · split
      · exact h.dmaCopy b 256 0 s hs
      · split
        · exact h.ioWrite a b hs
        · exact h.cartWrite a b hs

/-- What every device keeps, every bus access keeps. -/
theorem DeviceKeeps.busKeeps (h : DeviceKeeps P) : BusKeeps P := ⟨h.memRead, h.memWrite⟩

/-- The parts of a step outside the CPU keep the property too: one dot (R250), the NMI countdown (R341), the PPU half of
`Reset` (R361), and the request bit that `Reset` clears (log entry 5). -/
structure StepKeeps (P : Memory → Ppu → Env → Prop) : Prop extends DeviceKeeps P where
  dot : ∀ {m} {g : Video}, P m g.ppu g.env → P m (ppuStep g).ppu (ppuStep g).env
  countdown : ∀ {m p e}, P m p e → P m { p with nmiDelay := p.nmiDelay - 1 } e
  resetPpu : ∀ {m p e}, P m p e → P m (resetPpu p) e
  resetServed : ∀ {m p e}, P m p e → P m p { e with resetRequested := false }

theorem StepKeeps.ppuSteps (h : StepKeeps P) {m : Memory} (n : Nat) (g : Video) (hg : P m g.ppu g.env) :
    P m (ppuSteps n g).ppu (ppuSteps n g).env := by
  induction n generalizing g with
  | zero => exact hg
  | succ n ih => exact ih (ppuStep g) (h.dot hg)

theorem StepKeeps.nmiDelayTick (h : StepKeeps P) (s : State) (hs : s.on P) : (nmiDelayTick s).on P := by
  unfold Machine.nmiDelayTick
  split
  · exact h.countdown hs
  · exact hs

theorem StepKeeps.finishStep (h : StepKeeps P) (c : Nat) (s : State) (hs : s.on P) : (finishStep c s).on P :=
  h.nmiDelayTick _ (h.ppuSteps _ s.video hs)

theorem StepKeeps.serveReset (h : StepKeeps P) (s : State) (hs : s.on P) : (serveReset s).on P :=
  h.resetPpu (h.busKeeps.read16 Config.vecReset (s.setEnv _) (h.resetServed hs))

/-- Every step keeps what its parts keep (R8, R310). -/
theorem StepKeeps.step (h : StepKeeps P) {s t : State} (hs : s.on P) (e : step s = .next t) : t.on P := by
  rcases step_cases e with rfl | ⟨u, hu, rfl⟩
  · exact h.serveReset s hs
  · exact h.finishStep _ u (h.busKeeps.cpuStep (fun _ _ _ => h.after .irqSample) s u hs hu)

end StepKeeps

/-! The two scroll ports, each as the fields it can write. -/

/-- A scroll write changes `t`, fine X and the toggle alone (R229, R230). -/
theorem writeScroll_eq (b : Byte) (p : Ppu) : ∃ t x w, writeScroll b p = { p with t := t, x := x, w := w } := by
  unfold writeScroll
  split <;> exact ⟨_, _, _, rfl⟩

/-- An address write changes `t`, `v` and the toggle alone (R231, R232). -/
theorem writeAddress_eq (b : Byte) (p : Ppu) : ∃ t v w, writeAddress b p = { p with t := t, v := v, w := w } := by
  unfold writeAddress
  split <;> exact ⟨_, _, _, rfl⟩

/-! The PPU registers over a step (R24, R32 to R34). -/

section Registers

/-- The three invariants of the PPU's registers together: the counters' bounds, the palette-number latch, the edge
record. -/
def Ppu.registersOk (p : Ppu) : Prop := p.boundsOk ∧ p.attributeOk ∧ p.edgeOk

/-- Recording the level makes the edge record right, whatever it was, and starts no longer countdown than the bound
(R340). -/
theorem nmiChange_registersOk {p : Ppu} (hb : p.boundsOk) (ha : p.attributeOk) : (nmiChange p).registersOk := by
  obtain ⟨hline, hdot, hcount, hdelay⟩ := hb
  have hd : (nmiChange p).nmiDelay ≤ Config.nmiDelay := by
    unfold nmiChange
    dsimp only
    split
    · exact le_rfl
    · exact hdelay
  exact ⟨⟨hline, hdot, hcount, hd⟩, ha, rfl⟩

/-- A control write can move the NMI level, and records it (R221). -/
theorem writeControl_registersOk {p : Ppu} (b : Byte) (hb : p.boundsOk) (ha : p.attributeOk) :
    (writeControl b p).registersOk :=
  nmiChange_registersOk (p := { p with control := _, nmiOutput := _ }) hb ha

theorem writeData_registersOk {g : Video} (b : Byte) (h : g.ppu.registersOk) : (writeData b g).ppu.registersOk := by
  unfold writeData
  obtain ⟨e, -⟩ | ⟨k, -, e⟩ | ⟨k, -, e⟩ := ppuWrite_eq (g.ppu.v.setWidth 16) b g <;> rw [e] <;> exact h

/-- A port write changes no counter of the PPU and not the palette-number latch, and only a control write moves the NMI
level. -/
theorem portWrite_registersOk {g : Video} (n : Nat) (b : Byte) (h : g.ppu.registersOk) :
    (portWrite n b g).ppu.registersOk := by
  unfold portWrite portEffect
  split
  · exact writeControl_registersOk (p := { g.ppu with ioLatch := b }) b h.1 h.2.1
  · exact h
  · exact h
  · exact h
  · obtain ⟨_, _, _, e⟩ := writeScroll_eq b { g.ppu with ioLatch := b }
    dsimp only
    rw [e]
    exact h
  · obtain ⟨_, _, _, e⟩ := writeAddress_eq b { g.ppu with ioLatch := b }
    dsimp only
    rw [e]
    exact h
  · exact writeData_registersOk (g := { g with ppu := { g.ppu with ioLatch := b } }) b h
  · exact h

theorem readData_registersOk {g : Video} (h : g.ppu.registersOk) : (readData g).2.ppu.registersOk := by
  unfold readData
  dsimp only
  split <;> exact h

/-- A status read clears the flag and records the level (R225); the other port reads touch neither. -/
theorem portRead_registersOk {g : Video} (n : Nat) (h : g.ppu.registersOk) : (portRead n g).2.ppu.registersOk := by
  unfold portRead
  split
  · exact nmiChange_registersOk (p := { g.ppu with nmiOccurred := false }) h.1 h.2.1
  · exact h
  · exact readData_registersOk h
  · exact h

/-- The counters move on inside their bounds (R251). -/
theorem tick_registersOk {p : Ppu} (h : p.registersOk) : (tick p).registersOk := by
  obtain ⟨⟨hline, hdot, hcount, hdelay⟩, hlatch⟩ := h
  unfold tick
  split
  · exact ⟨⟨Nat.zero_le _, Nat.zero_le _, hcount, hdelay⟩, hlatch⟩
  · split
    · split
      · exact ⟨⟨Nat.zero_le _, Nat.zero_le _, hcount, hdelay⟩, hlatch⟩
      · next hwrap => exact ⟨⟨Nat.le_of_not_lt hwrap, Nat.zero_le _, hcount, hdelay⟩, hlatch⟩
    · next hwrap => exact ⟨⟨hline, Nat.le_of_not_lt hwrap, hcount, hdelay⟩, hlatch⟩

theorem pixelStage_registersOk {p : Ppu} (h : p.registersOk) : (pixelStage p).registersOk := by
  obtain ⟨hit, back, e⟩ := pixelStage_eq p
  rw [e]
  exact h

/-- Two bits shifted to bits 3:2 are a palette number times 4 (R33). -/
theorem paletteNumber_mask (b : Byte) : ((b &&& 3) <<< 2) &&& 0xF3 = 0 := by
  ext i hi
  interval_cases i <;> simp

/-- The one fetch that writes the palette-number latch stores a palette number times 4 there (R261). -/
theorem fetchCase_registersOk {g : Video} (h : g.ppu.registersOk) : (fetchCase g).ppu.registersOk := by
  unfold fetchCase
  split
  · exact h
  · exact ⟨h.1, paletteNumber_mask _, h.2.2⟩
  · exact h
  · exact h
  · exact h
  · exact h

theorem fetchStage_registersOk {g : Video} (h : g.ppu.registersOk) : (fetchStage g).ppu.registersOk := by
  unfold fetchStage
  split
  · exact fetchCase_registersOk (g := { g with ppu := { g.ppu with tileData := _ } }) h
  · exact h

/-- Sprite evaluation leaves at most eight slots filled (R271). -/
theorem spriteStage_registersOk {g : Video} (h : g.ppu.registersOk) : (spriteStage g).ppu.registersOk := by
  obtain ⟨⟨hline, hdot, hcount, hdelay⟩, hlatch⟩ := h
  obtain ⟨sprites, count, overflow, token, e, hn⟩ := spriteStage_eq g
  rw [e]
  exact ⟨⟨hline, hdot, hn.elim id (· ▸ hcount), hdelay⟩, hlatch⟩

theorem renderStage_registersOk {g : Video} (h : g.ppu.registersOk) : (renderStage g).ppu.registersOk := by
  unfold renderStage
  split
  · exact spriteStage_registersOk (g := { fetchStage g with ppu := scrollStage _ }) (fetchStage_registersOk h)
  · exact h

/-- Both dots that move the vertical-blank flag record the level (R290, R291). -/
theorem vblankStage_registersOk {g : Video} (h : g.ppu.registersOk) : (vblankStage g).ppu.registersOk := by
  unfold vblankStage
  split
  · exact nmiChange_registersOk (p := { g.ppu with front := _, back := _, framesSent := _, nmiOccurred := true }) h.1
      h.2.1
  · split
    · exact nmiChange_registersOk (p := { g.ppu with nmiOccurred := false }) h.1 h.2.1
    · exact h

theorem ppuStep_registersOk {g : Video} (h : g.ppu.registersOk) : (ppuStep g).ppu.registersOk :=
  vblankStage_registersOk
    (renderStage_registersOk (g := { g with ppu := pixelStage (tick g.ppu) })
      (pixelStage_registersOk (tick_registersOk h)))

/-- The position after `Reset` is in range, and writing 0 to the control port records the level (R361). -/
theorem resetPpu_registersOk {p : Ppu} (h : p.registersOk) : (resetPpu p).registersOk := by
  obtain ⟨⟨-, -, hcount, hdelay⟩, hlatch, -⟩ := h
  exact writeControl_registersOk (p := { p with cycle := 340, scanline := 240, frame := 0 }) 0
    ⟨show 240 ≤ 261 by decide, le_rfl, hcount, hdelay⟩ hlatch

theorem countdown_registersOk {p : Ppu} (h : p.registersOk) :
    Ppu.registersOk { p with nmiDelay := p.nmiDelay - 1 } := by
  obtain ⟨⟨hline, hdot, hcount, hdelay⟩, hlatch⟩ := h
  exact ⟨⟨hline, hdot, hcount, (Nat.sub_le _ _).trans hdelay⟩, hlatch⟩

/-- Every part of a step keeps the PPU's registers legal. -/
theorem registersOk_stepKeeps : StepKeeps fun _ p _ => p.registersOk where
  ram _ _ h := h
  portRead n h := portRead_registersOk n h
  portWrite n b h := portWrite_registersOk n b h
  oamData _ h := h
  after _ h := h
  ioWrite _ _ h := h
  cartWrite _ _ h := h
  dot h := ppuStep_registersOk h
  countdown h := countdown_registersOk h
  resetPpu h := resetPpu_registersOk h
  resetServed h := h

/-- Settles O6: the three invariants are one property of the PPU that every part of a step keeps. -/
theorem stepKeepsPpuRegisters : Obligations.StepKeepsPpuRegisters := fun _ _ hbounds hattr hedge e =>
  registersOk_stepKeeps.step ⟨hbounds, hattr, hedge⟩ e

end Registers

/-! The memories over a step (R23, R35, R36, R73 to R75). -/

section Memories

/-- The environment's part of `State.memoriesOk`: its images are in canonical form. -/
def Env.imagesOk (e : Env) : Prop := Image.wf 65536 e.prg ∧ Image.wf 8192 e.chr ∧ Image.wf 65536 e.io

/-- The PPU's part of O7: its memories in canonical form and the folded palette entries unwritten. -/
def Ppu.storesOk (p : Ppu) : Prop := p.memoriesOk ∧ p.paletteOk

/-- Every memory of RAM, PPU and environment. -/
def allMemoriesOk (m : Memory) (p : Ppu) (e : Env) : Prop := Memory.wf 2048 m ∧ p.storesOk ∧ e.imagesOk

theorem allMemoriesOk_iff (s : State) : s.on allMemoriesOk ↔ s.memoriesOk ∧ s.ppu.paletteOk :=
  ⟨fun ⟨hram, ⟨hppu, hfold⟩, himages⟩ => ⟨⟨hram, hppu, himages⟩, hfold⟩,
    fun ⟨⟨hram, hppu, himages⟩, hfold⟩ => ⟨hram, ⟨hppu, hfold⟩, himages⟩⟩

theorem ramIndex_lt (a : Addr) : ramIndex a < 2048 := Nat.mod_lt _ (by decide)

theorem cartCpuWrite_imagesOk {e : Env} (a : Addr) (b : Byte) (h : e.imagesOk) : (cartCpuWrite a b e).imagesOk :=
  ⟨Image.wf_store h.1 a.isLt b, h.2⟩

theorem ioWrite_imagesOk {e : Env} (a : Addr) (b : Byte) (h : e.imagesOk) : (ioWrite a b e).imagesOk := by
  obtain ⟨hprg, hchr, hio⟩ := h
  exact ⟨hprg, hchr, Image.wf_store hio a.isLt b⟩

theorem cartPpuWrite_imagesOk {e : Env} {a : Nat} (ha : a < 0x2000) (b : Byte) (h : e.imagesOk) :
    (cartPpuWrite a b e).imagesOk := by
  obtain ⟨hprg, hchr, hio⟩ := h
  exact ⟨hprg, Image.wf_store hchr ha b, hio⟩

theorem nametable_write_storesOk {p : Ppu} {k : Nat} (hk : k < 2048) (b : Byte) (h : p.storesOk) :
    Ppu.storesOk { p with nametable := p.nametable.write k b } := by
  obtain ⟨⟨hpal, hname, hrest⟩, hfold⟩ := h
  exact ⟨⟨hpal, Memory.wf_write hname hk b, hrest⟩, hfold⟩

/-- A palette write goes to a folded index, so the four entries behind the fold stay unwritten (R74). -/
theorem palette_write_storesOk {p : Ppu} {k : Nat} (hk : k < 32) (b : Byte) (h : p.storesOk) :
    Ppu.storesOk { p with palette := p.palette.write (paletteIndex k) b } := by
  obtain ⟨⟨hpal, hrest⟩, h16, h20, h24, h28⟩ := h
  obtain ⟨hlt, n16, n20, n24, n28⟩ := paletteIndex_spec hk
  have unwritten {j : Nat} (hj : paletteIndex k ≠ j) (h : Cells.find? p.palette j = none) :
      Cells.find? (p.palette.write (paletteIndex k) b) j = none := by
    rw [Memory.write, Cells.find?_write, if_neg hj, h]
  exact ⟨⟨Memory.wf_write hpal hlt b, hrest⟩,
    unwritten n16 h16, unwritten n20 h20, unwritten n24 h24, unwritten n28 h28⟩

/-- The OAM cursor is a byte, so a write there stays in the 256 bytes (R75). -/
theorem writeOamData_storesOk {p : Ppu} (b : Byte) (h : p.storesOk) : (writeOamData b p).storesOk := by
  obtain ⟨⟨hpal, hname, hoam, hframes⟩, hfold⟩ := h
  exact ⟨⟨hpal, hname, Memory.wf_write hoam p.oamAddr.isLt b, hframes⟩, hfold⟩

/-- The memories a dot or a port reaches. -/
def Video.memoriesOk (g : Video) : Prop := g.ppu.storesOk ∧ g.env.imagesOk

theorem ppuWrite_memoriesOk {g : Video} (a : Addr) (b : Byte) (h : g.memoriesOk) : (ppuWrite a b g).memoriesOk := by
  obtain ⟨e, ha⟩ | ⟨k, hk, e⟩ | ⟨k, hk, e⟩ := ppuWrite_eq a b g
  · rw [e]
    exact ⟨h.1, cartPpuWrite_imagesOk ha b h.2⟩
  · rw [e]
    exact ⟨nametable_write_storesOk hk b h.1, h.2⟩
  · rw [e]
    exact ⟨palette_write_storesOk hk b h.1, h.2⟩

/-- Only the ports $2004 and $2007 store in a memory (R228, R234). -/
theorem portWrite_memoriesOk {g : Video} (n : Nat) (b : Byte) (h : g.memoriesOk) : (portWrite n b g).memoriesOk := by
  unfold portWrite portEffect
  split
  · exact h
  · exact h
  · exact h
  · exact ⟨writeOamData_storesOk (p := { g.ppu with ioLatch := b }) b h.1, h.2⟩
  · obtain ⟨_, _, _, e⟩ := writeScroll_eq b { g.ppu with ioLatch := b }
    dsimp only
    rw [e]
    exact h
  · obtain ⟨_, _, _, e⟩ := writeAddress_eq b { g.ppu with ioLatch := b }
    dsimp only
    rw [e]
    exact h
  · exact ppuWrite_memoriesOk (g := { g with ppu := { g.ppu with ioLatch := b } }) _ b h
  · exact h

theorem portRead_memoriesOk {g : Video} (n : Nat) (h : g.memoriesOk) : (portRead n g).2.memoriesOk := by
  obtain ⟨_, _, _, _, _, _, e⟩ := portRead_eq n g
  rw [e]
  exact h

/-- A pixel is drawn on a visible dot of a visible line, so inside the 256 by 240 buffer (R250, R282). -/
theorem pixelStage_storesOk {p : Ppu} (h : p.storesOk) : (pixelStage p).storesOk := by
  unfold pixelStage
  split
  · next hvis =>
    obtain ⟨hline, -, hdot⟩ : p.scanline < 240 ∧ 1 ≤ p.cycle ∧ p.cycle ≤ 256 := by
      simpa [Ppu.visibleLine, Ppu.visibleDot] using hvis
    obtain ⟨⟨hpal, hname, hoam, hfront, hback⟩, hfold⟩ := h
    exact ⟨⟨hpal, hname, hoam, hfront, Grid.wf_write hback hline (by omega) _⟩, hfold⟩
  · exact h

theorem tick_storesOk {p : Ppu} (h : p.storesOk) : (tick p).storesOk := by
  rw [tick_eq]
  exact h

theorem renderStage_memoriesOk {g : Video} (h : g.memoriesOk) : (renderStage g).memoriesOk := by
  obtain ⟨_, _, _, _, _, _, _, _, _, _, e, -⟩ := renderStage_eq g
  rw [e]
  exact h

/-- The vertical-blank stage exchanges the frame buffers at most (R290). -/
theorem vblankStage_memoriesOk {g : Video} (h : g.memoriesOk) : (vblankStage g).memoriesOk := by
  unfold vblankStage
  split
  · obtain ⟨⟨⟨hpal, hname, hoam, hfront, hback⟩, hfold⟩, himages⟩ := h
    exact ⟨⟨⟨hpal, hname, hoam, hback, hfront⟩, hfold⟩, himages⟩
  · split <;> exact h

theorem ppuStep_memoriesOk {g : Video} (h : g.memoriesOk) : (ppuStep g).memoriesOk :=
  vblankStage_memoriesOk (renderStage_memoriesOk ⟨pixelStage_storesOk (tick_storesOk h.1), h.2⟩)

/-- Every part of a step keeps every memory in canonical form. -/
theorem allMemoriesOk_stepKeeps : StepKeeps allMemoriesOk where
  ram a b := fun ⟨hram, hrest⟩ => ⟨Memory.wf_write hram (ramIndex_lt a) b, hrest⟩
  portRead n := fun ⟨hram, hvideo⟩ => ⟨hram, portRead_memoriesOk n hvideo⟩
  portWrite n b := fun ⟨hram, hvideo⟩ => ⟨hram, portWrite_memoriesOk n b hvideo⟩
  oamData b := fun ⟨hram, hppu, henv⟩ => ⟨hram, writeOamData_storesOk b hppu, henv⟩
  after _ h := h
  ioWrite a b := fun ⟨hram, hppu, henv⟩ => ⟨hram, hppu, ioWrite_imagesOk a b henv⟩
  cartWrite a b := fun ⟨hram, hppu, henv⟩ => ⟨hram, hppu, cartCpuWrite_imagesOk a b henv⟩
  dot := fun ⟨hram, hvideo⟩ => ⟨hram, ppuStep_memoriesOk hvideo⟩
  countdown h := h
  resetPpu h := h
  resetServed h := h

/-- Settles O7: every part of a step keeps every memory in canonical form. The bounds of the counters are not needed,
since a dot draws only where it has tested its own position. -/
theorem stepKeepsMemories : Obligations.StepKeepsMemories := fun s t _ hmem hpal e =>
  (allMemoriesOk_iff t).1 (allMemoriesOk_stepKeeps.step ((allMemoriesOk_iff s).2 ⟨hmem, hpal⟩) e)

end Memories

/-! What is pushed comes back (R17, R18). -/

section RoundTrips

theorem EntryKind.nmi_or_irq {k : EntryKind} (hk : k ≠ .brk) : k = .nmi ∨ k = .irq := by
  cases k with
  | nmi => exact .inl rfl
  | irq => exact .inr rfl
  | brk => exact absurd rfl hk

/-- A legal status is what comes back from any pushed copy that agrees with it outside `B` and `U` (R15). -/
theorem pulledStatus_of_legal {p b : Byte} (hp : statusLegal p)
    (h : ∀ i, i ≠ 4 → i ≠ 5 → b.getLsbD i = p.getLsbD i) : pulledStatus b = p := by
  obtain ⟨h4, h5⟩ := hp
  refine BitVec.eq_of_getLsbD_eq fun i _ => ?_
  rw [getLsbD_pulledStatus]
  split
  · next e => rw [e, h5]
  · split
    · next e => rw [e, h4]
    · next n5 n4 => exact h i n4 n5

/-- NMI and IRQ push the status with `B` clear and `U` set (R335), which a legal one has already. -/
theorem pulledStatus_pushedStatus {p : Byte} (hp : statusLegal p) {k : EntryKind} (hk : k ≠ .brk) :
    pulledStatus (k.pushedStatus p) = p := by
  have hpush : k.pushedStatus p = pulledStatus p := by obtain rfl | rfl := EntryKind.nmi_or_irq hk <;> rfl
  have hself : pulledStatus p = p := pulledStatus_of_legal hp fun _ _ _ => rfl
  rw [hpush, hself, hself]

/-- The copy PHP pushes differs from `P` in bits 4 and 5 alone (R201). -/
theorem pulledStatus_or_0x30 {p : Byte} (hp : statusLegal p) : pulledStatus (p ||| 0x30) = p := by
  have h : p ||| 0x30 = putBit 5 true (putBit 4 true p) := by simp [putBit, BitVec.or_assoc]
  refine pulledStatus_of_legal hp fun i h4 h5 => ?_
  rw [h, getLsbD_putBit (by decide), getLsbD_putBit (by decide), if_neg h5, if_neg h4]

@[simp] theorem word16_hiByte_loByte (w : Addr) : word16 (hiByte w) (loByte w) = w := by
  refine BitVec.eq_of_toNat_eq ?_
  have hw : (word16 (hiByte w) (loByte w)).toNat = (hiByte w).toNat <<< 8 ||| (loByte w).toNat :=
    BitVec.toNat_append _ _
  rw [hw, ← Nat.shiftLeft_add_eq_or_of_lt (BitVec.isLt _), Nat.shiftLeft_eq]
  have := w.isLt
  simp [hiByte, loByte, Nat.shiftRight_eq_div_pow]
  omega

/-- Stack addresses of different stack pointers are different bytes of RAM (R13, R54). -/
theorem ramIndex_stackAddress_inj {p q : Byte} : ramIndex (stackAddress p) = ramIndex (stackAddress q) ↔ p = q := by
  have index (b : Byte) : ramIndex (stackAddress b) = 256 + b.toNat := by
    rw [ramIndex, stackAddress_toNat, Nat.mod_eq_of_lt (by omega)]
  rw [index, index, Nat.add_left_cancel_iff, BitVec.toNat_inj]

/-- A stack byte after a write to the stack: the byte written at its own pointer, the old one elsewhere. -/
@[simp] theorem stack_read_write (m : Memory) (p q : Byte) (b : Byte) :
    (m.write (ramIndex (stackAddress p)) b).read (ramIndex (stackAddress q)) =
      if p = q then b else m.read (ramIndex (stackAddress q)) := by
  simp only [Memory.read_write, ramIndex_stackAddress_inj]

/-- A byte on top of the stack, at the pointer `p`, is pulled and leaves the pointer at `p` (R18). -/
theorem pull_of_top {s : State} {p b : Byte} (hsp : s.sp = p - 1) (hb : s.ramByte (stackAddress p) = b) :
    pull s = (b, s.setSP p) := by
  have h : s.sp + 1 = p := by rw [hsp]; bv_omega
  rw [pull_eq, h, hb]

/-- A word on top of the stack, its high byte at `p`, is pulled whole and leaves the pointer at `p` (R182, R183). -/
theorem pullWord_of_top {s : State} {p : Byte} {w : Addr} (hsp : s.sp = p - 2)
    (hhigh : s.ramByte (stackAddress p) = hiByte w) (hlow : s.ramByte (stackAddress (p - 1)) = loByte w) :
    pullWord s = (w, s.setSP p) := by
  have hl : pull s = (loByte w, s.setSP (p - 1)) := pull_of_top (by rw [hsp]; bv_omega) hlow
  have hh : pull (s.setSP (p - 1)) = (hiByte w, s.setSP p) := pull_of_top rfl hhigh
  simp only [pullWord, hl, hh, word16_hiByte_loByte]

/-- RTS after JSR (R181, R182). -/
theorem rts_after_jsr (w : Addr) (s : State) : ∃ t, exec (.jsr w) s = .next t ∧
    exec .rts t = .next { s with pc := s.pc + 3, cycles := s.cycles + 12, ram := t.ram } := by
  refine ⟨_, rfl, ?_⟩
  simp only [exec, execRts]
  rw [pullWord_of_top (p := s.sp) (w := s.pc + 3 - 1)]
  · simp [pushWord, push_eq, State.setPC, State.setSP, State.setRam, State.start]
  · simp only [pushWord, push_eq, State.start_sp, State.setPC_sp, State.setSP_sp]
    bv_omega
  · simp [pushWord, push_eq, State.ramByte]
  · simp [pushWord, push_eq, State.ramByte]

/-- The three bytes an entry pushes, at the pointers they go to (R335). -/
theorem interruptEntry_ram (k : EntryKind) (s : State) :
    (interruptEntry k s).ram =
      ((s.ram.write (ramIndex (stackAddress s.sp)) (hiByte (k.returnAddress s.pc))).write
        (ramIndex (stackAddress (s.sp - 1))) (loByte (k.returnAddress s.pc))).write
        (ramIndex (stackAddress (s.sp - 2))) (k.pushedStatus s.p) := by
  rw [interruptEntry_eq]
  rfl

/-- The return from an interrupt undoes the pushes of an NMI or IRQ entry from a legal status (R335, R338); `n` cycles
pass between the two. -/
theorem returnFromInterrupt_interruptEntry {s : State} (hs : s.statusOk) {k : EntryKind} (hk : k ≠ .brk) (len n : Nat) :
    returnFromInterrupt ((interruptEntry k s).start len n) =
      { s with
        cycles := s.cycles + 7 + n, ram := (interruptEntry k s).ram, env := (interruptEntry k s).env } := by
  have hsp : (interruptEntry k s).sp = s.sp - 3 := by rw [interruptEntry_eq]
  have hret : k.returnAddress s.pc = s.pc := by obtain rfl | rfl := EntryKind.nmi_or_irq hk <;> rfl
  have hown : k.ownCycles = 7 := by obtain rfl | rfl := EntryKind.nmi_or_irq hk <;> rfl
  have hstatus : pull ((interruptEntry k s).start len n) =
      (k.pushedStatus s.p, ((interruptEntry k s).start len n).setSP (s.sp - 2)) :=
    pull_of_top (by rw [State.start_sp, hsp]; bv_omega) (by simp [State.ramByte, interruptEntry_ram])
  have hword : pullWord ((((interruptEntry k s).start len n).setSP (s.sp - 2)).setP s.p) =
      (s.pc, ((((interruptEntry k s).start len n).setSP (s.sp - 2)).setP s.p).setSP s.sp) :=
    pullWord_of_top rfl (by simp [State.ramByte, interruptEntry_ram, hret])
      (by simp [State.ramByte, interruptEntry_ram, hret])
  simp only [returnFromInterrupt, hstatus, pulledStatus_pushedStatus hs hk, hword]
  rw [interruptEntry_eq]
  simp [State.setPC, State.setSP, State.setP, State.start, hown]

/-- PLA after PHA (R200, R202). -/
theorem pla_after_pha (s : State) : ∃ t q, exec .pha s = .next t ∧
    exec .pla t = .next { s with pc := s.pc + 2, cycles := s.cycles + 7, ram := t.ram, p := q } ∧ onlyZN s.p q s.a := by
  refine ⟨_, setZN s.a s.p, rfl, ?_, onlyZN_setZN _ _⟩
  simp only [exec, execPla]
  rw [pull_of_top (p := s.sp) (b := s.a)]
  · simp [push_eq, State.setZN, State.setP, State.setA, State.setSP, State.setRam, State.start, BitVec.add_assoc]
  · simp [push_eq]
  · simp [push_eq, State.ramByte]

/-- PLP after PHP from a legal status (R201, R203). -/
theorem plp_after_php {s : State} (hs : s.statusOk) : ∃ t, exec .php s = .next t ∧
    exec .plp t = .next { s with pc := s.pc + 2, cycles := s.cycles + 7, ram := t.ram } := by
  refine ⟨_, rfl, ?_⟩
  simp only [exec, execPlp]
  rw [pull_of_top (p := s.sp) (b := s.p ||| 0x30), pulledStatus_or_0x30 hs]
  · simp [push_eq, State.setP, State.setSP, State.setRam, State.start, BitVec.add_assoc]
  · simp [push_eq]
  · simp [push_eq, State.ramByte]

/-- Settles O36: one lemma for each of the four round trips. -/
theorem stackRoundTrips : Obligations.StackRoundTrips := fun s =>
  ⟨fun w => rts_after_jsr w s,
    fun hs _ hk => congrArg Host.Outcome.next (returnFromInterrupt_interruptEntry hs hk 1 6),
    pla_after_pha s, plp_after_php⟩

end RoundTrips
end Sys2Proof.Machine

namespace Sys2Proof.Machine

/-! The CPU bus (R52, R53): the device of each address range, once for a read and once for a write. `memRead_of_ram`,
`memRead_cart` and `memWrite_ram` are the ranges that the model's own laws give. -/

section CpuBus

theorem memRead_port {a : Addr} (h0 : ¬ a < 0x2000) (h : a < 0x4000) (s : State) :
    memRead a s = ((portRead (portNumber a) s.video).1, s.setVideo (portRead (portNumber a) s.video).2) := by
  rw [memRead, if_neg h0, if_pos h]

theorem memRead_ioLatch (s : State) : memRead 0x4014 s = (s.ppu.ioLatch, s) := rfl

theorem memRead_io {a : Addr} (h0 : ¬ a < 0x4000) (hdma : a ≠ 0x4014) (h : a < 0x4020) (s : State) :
    memRead a s = ((ioRead a s.env).1, s.setEnv (ioRead a s.env).2) := by
  have hram : ¬ a < 0x2000 := by bv_omega
  rw [memRead, if_neg hram, if_neg h0, if_neg hdma, if_pos h]

theorem memWrite_port {a : Addr} (h0 : ¬ a < 0x2000) (h : a < 0x4000) (b : Byte) (s : State) :
    memWrite a b s = s.setVideo (portWrite (portNumber a) b s.video) := by
  rw [memWrite, if_neg h0, if_pos h]

theorem memWrite_oamDma (b : Byte) (s : State) : memWrite 0x4014 b s = oamDma b s := rfl

theorem memWrite_io {a : Addr} (h0 : ¬ a < 0x4000) (hdma : a ≠ 0x4014) (h : a < 0x4020) (b : Byte) (s : State) :
    memWrite a b s = s.setEnv (ioWrite a b s.env) := by
  have hram : ¬ a < 0x2000 := by bv_omega
  rw [memWrite, if_neg hram, if_neg h0, if_neg hdma, if_pos h]

theorem memWrite_cart {a : Addr} (h : 0x4020 ≤ a) (b : Byte) (s : State) :
    memWrite a b s = s.setEnv (cartCpuWrite a b s.env) := by
  have hram : ¬ a < 0x2000 := by bv_omega
  have hport : ¬ a < 0x4000 := by bv_omega
  have hdma : a ≠ 0x4014 := by bv_omega
  have hio : ¬ a < 0x4020 := by bv_omega
  rw [memWrite, if_neg hram, if_neg hport, if_neg hdma, if_neg hio]

/-- Of the environment, a read of the CPU bus changes the hidden state alone (R60, R61, R68). -/
theorem memRead_env (a : Addr) (s : State) : ∃ t, (memRead a s).2.env = { s.env with token := t } := by
  unfold memRead
  split
  · exact ⟨s.env.token, rfl⟩
  · split
    · obtain ⟨_, _, _, _, _, t, h⟩ := portRead_eq (portNumber a) s.video
      exact ⟨t, congrArg Video.env h⟩
    · split
      · exact ⟨s.env.token, rfl⟩
      · split <;> exact ⟨_, rfl⟩

/-- A read of RAM or of $4014 has no side effect (R68, R237). -/
theorem memRead_keeps {a : Addr} (h : a < 0x2000 ∨ a = 0x4014) (s : State) : (memRead a s).2 = s := by
  obtain hram | rfl := h
  · rw [memRead_of_ram hram]
  · rw [memRead_ioLatch]

/-- Settles O20: `memRead_eq` bounds the change to PPU and environment, `memRead_ppu` and `memRead_env` say which of
their fields. -/
theorem readsChangeOnlyPortState : Obligations.ReadsChangeOnlyPortState := by
  intro a s
  obtain ⟨g, hstate⟩ := memRead_eq a s
  obtain ⟨occurred, prev, toggle, v, buffer, hppu⟩ := memRead_ppu a s
  obtain ⟨token, henv⟩ := memRead_env a s
  refine ⟨occurred, prev, toggle, v, buffer, token, ?_, fun h => memRead_keeps (h.imp_right BitVec.eq_of_toNat_eq) s⟩
  rw [← hppu, ← henv, hstate]
  rfl

/-- Settles O19: one lemma for each range of addresses. -/
theorem readsReachOneDevice : Obligations.ReadsReachOneDevice := by
  intro a s
  split
  · next hram => exact memRead_of_ram hram s
  · next hram =>
    split
    · next hport => exact memRead_port hram hport s
    · next hport =>
      split
      · next hdma =>
        obtain rfl : a = 0x4014 := BitVec.eq_of_toNat_eq hdma
        exact memRead_ioLatch s
      · next hdma =>
        split
        · next hio => exact memRead_io hport (fun h => hdma (congrArg BitVec.toNat h)) hio s
        · next hio => exact memRead_cart (Nat.le_of_not_lt hio) s

/-- Settles O21: one lemma for each range of addresses; `ramWith_write` is the frame of a RAM write. -/
theorem writesReachOneDevice : Obligations.WritesReachOneDevice := by
  intro a b s
  split
  · next hram => exact ⟨_, memWrite_ram hram b s, ramWith_write s.ram a b⟩
  · next hram =>
    split
    · next hport => exact memWrite_port hram hport b s
    · next hport =>
      split
      · next hdma =>
        obtain rfl : a = 0x4014 := BitVec.eq_of_toNat_eq hdma
        exact memWrite_oamDma b s
      · next hdma =>
        split
        · next hio => exact memWrite_io hport (fun h => hdma (congrArg BitVec.toNat h)) hio b s
        · next hio => exact memWrite_cart (Nat.le_of_not_lt hio) b s

end CpuBus

/-! The PPU bus (R70 to R74): the device of each address range, the nametable halves and the palette's fold. -/

section PpuBus

theorem ppuWrite_cart {a : Addr} (h : a.toNat % 0x4000 < 0x2000) (b : Byte) (g : Video) :
    ppuWrite a b g = { g with env := cartPpuWrite (a.toNat % 0x4000) b g.env } := if_pos h

theorem ppuWrite_nametable {a : Addr} (h0 : ¬ a.toNat % 0x4000 < 0x2000) (h : a.toNat % 0x4000 < 0x3F00) (b : Byte)
    (g : Video) :
    ppuWrite a b g =
      { g with
        ppu :=
          { g.ppu with
            nametable := g.ppu.nametable.write (mirrorAddress g.env.mirror (a.toNat % 0x4000)) b } } :=
  (if_neg h0).trans (if_pos h)

theorem ppuWrite_palette {a : Addr} (h0 : ¬ a.toNat % 0x4000 < 0x2000) (h : ¬ a.toNat % 0x4000 < 0x3F00) (b : Byte)
    (g : Video) : ppuWrite a b g = { g with ppu := writePalette (a.toNat % 0x4000 % 32) b g.ppu } :=
  (if_neg h0).trans (if_neg h)

/-- Settles O45: the read is R70's chain as it stands; the write has one lemma for each range of addresses. -/
theorem ppuBusReachesOneDevice : Obligations.PpuBusReachesOneDevice := by
  intro a b g
  refine ⟨rfl, ?_⟩
  split
  · next hcart => exact ppuWrite_cart hcart b g
  · next hcart =>
    split
    · next hname =>
      refine ⟨_, ppuWrite_nametable hcart hname b g, fun j => ?_⟩
      simp only [Memory.read_write, eq_comm]
    · next hname => exact ppuWrite_palette hcart hname b g

/-- The nametables at $2000 and their copies at $3000 reach the half that the mode's table gives (R72). -/
theorem mirrorAddress_of_base {base : Nat} (hbase : base = 0x2000 ∨ base = 0x3000) {table off : Nat}
    (ht : table < 4) (ho : off < 0x400) (mode : Mirroring) :
    mirrorAddress mode (base + table * 0x400 + off) = mirrorTable mode table * 0x400 + off := by
  have hr : (base + table * 0x400 + off - 0x2000) % 0x1000 = table * 0x400 + off := by omega
  have htable : (table * 0x400 + off) / 0x400 = table := by omega
  have hoff : (table * 0x400 + off) % 0x400 = off := by omega
  simp only [mirrorAddress, hr, htable, hoff]

theorem mirrorTable_horizontal {table : Nat} (h : table < 4) :
    mirrorTable .horizontal table = if table < 2 then 0 else 1 := by
  simp only [mirrorTable]
  split <;> omega

theorem mirrorTable_vertical {table : Nat} (h : table < 4) :
    mirrorTable .vertical table = if table = 0 ∨ table = 2 then 0 else 1 := by
  simp only [mirrorTable]
  split <;> omega

theorem paletteIndex_of_folded {i : Nat} (h : 16 ≤ i) (h4 : i % 4 = 0) : paletteIndex i = i - 16 := if_pos ⟨h, h4⟩

theorem paletteIndex_of_lt {i : Nat} (h : i < 16) : paletteIndex i = i := if_neg (by omega)

/-- A folded entry and its image under the fold are one byte of the palette (R73, R74). -/
theorem paletteIndex_sub {i : Nat} (hi : i < 32) (h : 16 ≤ i) (h4 : i % 4 = 0) :
    paletteIndex (i - 16) = paletteIndex i := by
  rw [paletteIndex_of_folded h h4, paletteIndex_of_lt (by omega)]

/-- The fold joins no other two entries. -/
theorem paletteIndex_ne {i j : Nat} (hi : i < 32) (hj : j < 32) (h : i % 16 ≠ j % 16 ∨ (i ≠ j ∧ i % 4 ≠ 0)) :
    paletteIndex i ≠ paletteIndex j := by
  unfold paletteIndex
  split <;> split <;> omega

theorem readPalette_writePalette (i j : Nat) (b : Byte) (p : Ppu) :
    readPalette j (writePalette i b p) = if paletteIndex i = paletteIndex j then b else readPalette j p :=
  Memory.read_write p.palette (paletteIndex i) (paletteIndex j) b

/-- Settles O46: the halves by `mirrorAddress_of_base` and the mode's table; the palette by read after write and what
the fold joins. -/
theorem nametablesAndPaletteFold : Obligations.NametablesAndPaletteFold := by
  constructor
  · intro table off ht ho half mode
    have hhalf : mirrorTable mode table = half mode := by
      cases mode with
      | horizontal => exact mirrorTable_horizontal ht
      | vertical => exact mirrorTable_vertical ht
      | single0 => rfl
      | single1 => rfl
    rw [← hhalf]
    exact ⟨mirrorAddress_of_base (.inl rfl) ht ho mode, mirrorAddress_of_base (.inr rfl) ht ho mode⟩
  · intro p b i j hi hj
    refine ⟨fun h h4 => ?_, ?_, fun h h4 => ?_, fun h => ?_⟩
    · rw [readPalette, readPalette, paletteIndex_sub hi h h4]
    · rw [readPalette_writePalette, if_pos rfl]
    · rw [readPalette_writePalette, if_pos (paletteIndex_sub hi h h4).symm]
    · rw [readPalette_writePalette, if_neg (paletteIndex_ne hi hj h)]

end PpuBus
end Sys2Proof.Machine

namespace Sys2Proof

/-! The decoder and the encoder (R90, R92, R110, R111). Both agree because one relation holds between an opcode byte, two
operand bytes and the instruction they are: `decodeOp_eq_iff`. -/

section Encoding

open Machine

/-- `{h, l}` as a number (R7). -/
theorem word16_toNat (h l : Byte) : (word16 h l).toNat = h.toNat * 256 + l.toNat := by
  have append : (word16 h l).toNat = h.toNat <<< 8 ||| l.toNat := BitVec.toNat_append h l
  rw [append, ← Nat.shiftLeft_add_eq_or_of_lt l.isLt, Nat.shiftLeft_eq]

theorem hiByte_toNat (w : Addr) : (hiByte w).toNat = w.toNat / 256 := by
  have := w.isLt
  simp [hiByte, Nat.shiftRight_eq_div_pow]
  omega

theorem hiByte_word16 (h l : Byte) : hiByte (word16 h l) = h := by
  refine BitVec.eq_of_toNat_eq ?_
  rw [hiByte_toNat, word16_toNat]
  omega

theorem loByte_word16 (h l : Byte) : loByte (word16 h l) = l := by
  refine BitVec.eq_of_toNat_eq ?_
  rw [loByte, BitVec.toNat_setWidth, word16_toNat]
  omega

theorem wordBytes_operandWord (b1 b2 : Byte) : wordBytes (operandWord b1 b2) = [b1, b2] :=
  congrArg₂ (fun l h => [l, h]) (loByte_word16 b2 b1) (hiByte_word16 b2 b1)

theorem wordBytes_isPrefix_iff {w : Addr} {b1 b2 : Byte} : wordBytes w <+: [b1, b2] ↔ w = operandWord b1 b2 := by
  constructor
  · intro h
    have e : [loByte w, hiByte w] = [b1, b2] := h.eq_of_length rfl
    obtain ⟨rfl, rfl⟩ : loByte w = b1 ∧ hiByte w = b2 := by simpa using e
    exact (word16_hiByte_loByte w).symm
  · rintro rfl
    rw [wordBytes_operandWord]

theorem singleton_isPrefix_iff {b b1 b2 : Byte} : [b] <+: [b1, b2] ↔ b = b1 := by simp

/-- `i` is the instruction `j` with the operand bytes `b1` and `b2` in place, as far as its length goes (R92). -/
structure Instr.FilledFrom (j : Instr) (b1 b2 : Byte) (i : Instr) : Prop where
  opcode : i.opcode = j.opcode
  length : i.length = j.length
  operandBytes : i.operandBytes <+: [b1, b2]

/-- The opcode byte alone chooses the form of the instruction (R90): at each place of the matrix of R110 the operand
bytes are only put in their places. -/
theorem decodeOp_filledFrom (op b1 b2 : Byte) : (decodeOp op 0 0).FilledFrom b1 b2 (decodeOp op b1 b2) := by
  unfold decodeOp decodeRow0 decodeRow1 decodeRow2 decodeRow3 decodeRow4 decodeRow5 decodeRow6 decodeRow7 decodeRow8
    decodeRow9 decodeRowA decodeRowB decodeRowC decodeRowD decodeRowE decodeRowF
  generalize op.toNat / 16 = row, op.toNat % 16 = column
  split <;> split <;> refine ⟨rfl, rfl, ?_⟩
  all_goals
    simp [Instr.operandBytes, ReadOperand.bytes, ShiftOperand.bytes, MemOperand.bytes, JumpOperand.bytes,
      wordBytes_operandWord]

/-- The encoder's opcode of a decoded instruction is the byte it was decoded from. -/
theorem opcode_decodeOp (op b1 b2 : Byte) : (decodeOp op b1 b2).opcode = some op := by
  have plain : ∀ op : Byte, (decodeOp op 0 0).opcode = some op := by decide
  rw [(decodeOp_filledFrom op b1 b2).opcode, plain]

theorem length_decodeOp (op b1 b2 : Byte) : (decodeOp op b1 b2).length = opcodeLength op :=
  (decodeOp_filledFrom op b1 b2).length

theorem operandBytes_decodeOp (op b1 b2 : Byte) : (decodeOp op b1 b2).operandBytes <+: [b1, b2] :=
  (decodeOp_filledFrom op b1 b2).operandBytes

theorem decodeOp_illegal {op : Byte} (h : op ∈ illegalOpcodes) (b1 b2 : Byte) : decodeOp op b1 b2 = .illegal op := by
  have listed : illegalOpcodes.map (fun o => decodeOp o b1 b2) = illegalOpcodes.map .illegal := rfl
  exact List.map_inj_left.1 listed op h

/-- The memory operand with the operand bytes `b1` and `b2`, in each of the eight modes (R98 to R105). -/
theorem MemOperand.eq_of_bytes {m : MemOperand} {b1 b2 : Byte} (h : m.bytes <+: [b1, b2]) :
    m = .zp b1 ∨ m = .zpX b1 ∨ m = .zpY b1 ∨ m = .abs (operandWord b1 b2) ∨ m = .absX (operandWord b1 b2) ∨
      m = .absY (operandWord b1 b2) ∨ m = .indX b1 ∨ m = .indY b1 := by
  cases m with
  | zp b | zpX b | zpY b | indX b | indY b => obtain rfl := singleton_isPrefix_iff.1 h; simp
  | abs w | absX w | absY w => obtain rfl := wordBytes_isPrefix_iff.1 h; simp

theorem opcode_illegal_iff {o op : Byte} : (Instr.illegal o).opcode = some op ↔ o = op ∧ o ∈ illegalOpcodes := by
  simp [Instr.opcode, and_comm]

/-- An instruction that has an opcode is what the decoder makes of that opcode and the instruction's operand bytes. -/
theorem decodeOp_of_opcode {i : Instr} {op b1 b2 : Byte} (ho : i.opcode = some op) (hb : i.operandBytes <+: [b1, b2]) :
    decodeOp op b1 b2 = i := by
  cases i with
  | lda m | ldx m | ldy m | adc m | sbc m | and m | ora m | eor m | cmp m | cpx m | cpy m =>
    cases m with
    | imm b => obtain rfl := singleton_isPrefix_iff.1 hb; cases ho; rfl
    | mem m => rcases MemOperand.eq_of_bytes hb with rfl | rfl | rfl | rfl | rfl | rfl | rfl | rfl <;> cases ho <;> rfl
  | sta m | stx m | sty m | bit m | inc m | dec m =>
    rcases MemOperand.eq_of_bytes hb with rfl | rfl | rfl | rfl | rfl | rfl | rfl | rfl <;> cases ho <;> rfl
  | asl m | lsr m | rol m | ror m =>
    cases m with
    | acc => cases ho; rfl
    | mem m => rcases MemOperand.eq_of_bytes hb with rfl | rfl | rfl | rfl | rfl | rfl | rfl | rfl <;> cases ho <;> rfl
  | jmp t =>
    cases t with
    | abs w => obtain rfl := wordBytes_isPrefix_iff.1 hb; obtain rfl : 0x4C = op := Option.some.inj ho; rfl
    | ind w => obtain rfl := wordBytes_isPrefix_iff.1 hb; obtain rfl : 0x6C = op := Option.some.inj ho; rfl
  | jsr w => obtain rfl := wordBytes_isPrefix_iff.1 hb; cases ho; rfl
  | bcc b | bcs b | beq b | bne b | bmi b | bpl b | bvc b | bvs b =>
    obtain rfl := singleton_isPrefix_iff.1 hb; cases ho; rfl
  | illegal o => obtain ⟨rfl, h⟩ := opcode_illegal_iff.1 ho; exact decodeOp_illegal h b1 b2
  | _ => cases ho; rfl

/-- What `decodeOp` answers, said by the encoder. -/
theorem decodeOp_eq_iff {i : Instr} {op b1 b2 : Byte} :
    decodeOp op b1 b2 = i ↔ i.opcode = some op ∧ i.operandBytes <+: [b1, b2] :=
  ⟨by rintro rfl; exact ⟨opcode_decodeOp op b1 b2, operandBytes_decodeOp op b1 b2⟩,
    fun ⟨ho, hb⟩ => decodeOp_of_opcode ho hb⟩

/-- The well-formed instructions are those with an opcode (R110, R111). -/
theorem wellFormed_eq_isSome_opcode (i : Instr) : i.wellFormed = i.opcode.isSome := by
  cases i with
  | lda m | ldx m | ldy m | adc m | sbc m | and m | ora m | eor m | cmp m | cpx m | cpy m =>
    cases m with
    | imm b => rfl
    | mem m => cases m <;> rfl
  | sta m | stx m | sty m | bit m | inc m | dec m => cases m <;> rfl
  | asl m | lsr m | rol m | ror m =>
    cases m with
    | acc => rfl
    | mem m => cases m <;> rfl
  | illegal o =>
    rw [Instr.wellFormed, Instr.opcode]
    cases illegalOpcodes.contains o <;> rfl
  | _ => rfl

/-- The opcode byte and the operand bytes are the instruction's length (R90, R94). -/
theorem operandBytes_length (i : Instr) : i.operandBytes.length + 1 = i.length := by
  cases i with
  | lda m | ldx m | ldy m | adc m | sbc m | and m | ora m | eor m | cmp m | cpx m | cpy m =>
    exact Laws.EncodingLength.readOperand_bytes m
  | sta m | stx m | sty m | bit m | inc m | dec m => exact Laws.EncodingLength.memOperand_bytes m
  | asl m | lsr m | rol m | ror m => exact Laws.EncodingLength.shiftOperand_bytes m
  | jmp t => cases t <;> rfl
  | _ => rfl

theorem Instr.length_pos (i : Instr) : 1 ≤ i.length := by
  rw [← operandBytes_length]
  exact Nat.le_add_left 1 _

theorem MemOperand.length_le (m : MemOperand) : m.length ≤ 3 := by cases m <;> simp [MemOperand.length]

/-- No instruction is longer than three bytes (R90). -/
theorem Instr.length_le (i : Instr) : i.length ≤ 3 := by
  cases i with
  | lda m | ldx m | ldy m | adc m | sbc m | and m | ora m | eor m | cmp m | cpx m | cpy m =>
    cases m with
    | imm b => exact Nat.le_succ 2
    | mem m => exact m.length_le
  | sta m | stx m | sty m | bit m | inc m | dec m => exact m.length_le
  | asl m | lsr m | rol m | ror m =>
    cases m with
    | acc => decide
    | mem m => exact m.length_le
  | _ => simp [Instr.length, Config.illegalLen]

/-- As many bytes after the opcode as its length asks for are its operand, whatever follows (R90, R92). -/
theorem decode_append {op : Byte} {os : List Byte} (h : os.length + 1 = opcodeLength op) (rest : List Byte) :
    decode (op :: (os ++ rest)) = .ok (decodeOp op (os.getD 0 0) (os.getD 1 0), rest) := by
  have : opcodeLength op ≤ 3 := Instr.length_le _
  match os, h with
  | [], h | [_], h | [_, _], h => simp [decode, ← h]
  | _ :: _ :: _ :: _, h => simp only [List.length_cons] at h; omega

/-- What the decoder answers, it answers by `decode_append`. -/
theorem decode_eq_ok {bs rest : List Byte} {i : Instr} (h : decode bs = .ok (i, rest)) :
    ∃ op os, bs = op :: (os ++ rest) ∧ os.length + 1 = opcodeLength op ∧
      decodeOp op (os.getD 0 0) (os.getD 1 0) = i := by
  unfold decode at h
  split at h
  · cases h
  · next op tail =>
    split at h
    · next hl => cases h; exact ⟨op, [], rfl, hl.symm, rfl⟩
    · next b1 tail hl => cases h; exact ⟨op, [b1], rfl, hl.symm, rfl⟩
    · next b1 b2 tail hl => cases h; exact ⟨op, [b1, b2], rfl, hl.symm, rfl⟩
    · cases h

theorem isPrefix_getD {os : List Byte} (h : os.length + 1 ≤ 3) : os <+: [os.getD 0 0, os.getD 1 0] := by
  match os, h with
  | [], _ | [_], _ | [_, _], _ => simp

/-- Settles O13: a well-formed instruction has an opcode, by which `decodeOp_of_opcode` reads it back. -/
theorem decodeReadsBackEveryEncoding : Obligations.DecodeReadsBackEveryEncoding := by
  intro i hwf
  obtain ⟨op, ho⟩ := Option.isSome_iff_exists.1 ((wellFormed_eq_isSome_opcode i).symm.trans hwf)
  have hlen := operandBytes_length i
  have hdecode : decodeOp op (i.operandBytes.getD 0 0) (i.operandBytes.getD 1 0) = i :=
    decodeOp_of_opcode ho (isPrefix_getD (hlen.trans_le i.length_le))
  have hop : i.length = opcodeLength op := by rw [← length_decodeOp, hdecode]
  refine ⟨op :: i.operandBytes, by rw [encode, ho, Option.map_some], hlen, fun rest => ?_⟩
  rw [List.cons_append, decode_append (hlen.trans hop), hdecode]

/-- Settles O14: by `decode_eq_ok` the bytes are an opcode byte, its operand bytes and the rest; the encoder puts the
same opcode byte and as many operand bytes, which agree with those taken. -/
theorem encodeReadsBackEveryDecoding : Obligations.EncodeReadsBackEveryDecoding := by
  intro bs rest i h
  obtain ⟨op, os, rfl, hlen, hdecode⟩ := decode_eq_ok h
  obtain ⟨ho, hb⟩ := decodeOp_eq_iff.1 hdecode
  have hop : i.length = opcodeLength op := by rw [← length_decodeOp, hdecode]
  have hbytes := (operandBytes_length i).trans hop
  obtain ⟨_, hencoded⟩ := hb
  obtain ⟨_, htaken⟩ := isPrefix_getD (hlen.trans_le (Instr.length_le _))
  have hos : i.operandBytes = os := List.append_inj_left (hencoded.trans htaken.symm) (by omega)
  exact ⟨by rw [wellFormed_eq_isSome_opcode, ho, Option.isSome_some], op :: os,
    by rw [encode, ho, Option.map_some, hos], rfl⟩

/-- Settles O16: the list by evaluation; a listed byte decodes by `decodeOp_illegal`, and what decodes to ILLEGAL has its
own listed byte as its opcode. -/
theorem illegalOpcodesAreThose105 : Obligations.IllegalOpcodesAreThose105 := by
  refine ⟨rfl, by decide, fun op b1 b2 => ⟨fun h => ?_, fun h o e => ?_⟩⟩
  · refine ⟨decodeOp_illegal h b1 b2, ?_, fun s => ?_⟩
    · rw [opcodeLength, decodeOp_illegal h]; rfl
    · rw [decodeOp_illegal h]; rfl
  · obtain ⟨rfl, ho⟩ := opcode_illegal_iff.1 (decodeOp_eq_iff.1 e).1
    exact h ho

end Encoding

end Sys2Proof

namespace Sys2Proof.Machine

/-! The effective addresses (R94 to R105). -/

section Addresses

theorem zext16_toNat (b : Byte) : (zext16 b).toNat = b.toNat := by
  have := b.isLt
  simp [zext16]
  omega

theorem zext16_eq_ofNat (b : Byte) : zext16 b = BitVec.ofNat 16 b.toNat :=
  BitVec.eq_of_toNat_eq (by rw [zext16_toNat, BitVec.toNat_ofNat]; omega)

/-- An index added to an address, as numbers modulo 65536 (R102, R103, R105). -/
theorem add_zext16_eq_ofNat (w : Addr) (b : Byte) : w + zext16 b = BitVec.ofNat 16 (w.toNat + b.toNat) :=
  BitVec.eq_of_toNat_eq (by rw [BitVec.toNat_add, zext16_toNat, BitVec.toNat_ofNat])

/-- An index added inside zero page, as numbers modulo 256 (R99, R100). -/
theorem zext16_add_eq_ofNat (b i : Byte) : zext16 (b + i) = BitVec.ofNat 16 ((b.toNat + i.toNat) % 256) := by
  rw [zext16_eq_ofNat, BitVec.toNat_add]

/-- Zero page is RAM (R54), so a pointer there is two bytes of RAM (R57). -/
theorem read16ZP_eq_ram (z : Byte) (s : State) :
    read16ZP z s = s.ram.read (z + 1).toNat ++ s.ram.read z.toNat := by
  have ramByte (b : Byte) : s.ramByte (zext16 b) = s.ram.read b.toNat := by
    rw [State.ramByte, ramIndex, zext16_toNat, Nat.mod_eq_of_lt (by omega)]
  rw [read16ZP_eq, ramByte, ramByte]
  rfl

/-- A page is crossed where the high bytes differ (R102). -/
theorem pageCrossed_of_base {m : MemOperand} {s : State} {base : Addr} {index : Byte}
    (h : indexedBase m s = some (base, index)) :
    pageCrossed m s = decide (base.toNat / 256 ≠ (base.toNat + index.toNat) % 65536 / 256) := by
  simp [pageCrossed, h, bne, beq_eq_decide, ← BitVec.toNat_inj, hiByte_toNat, zext16_toNat]

/-- Settles O17: one line for each mode. -/
theorem effectiveAddresses : Obligations.EffectiveAddresses := by
  intro b w s byteAt pointer
  have hpointer (z : Byte) : read16ZP z s = pointer z := read16ZP_eq_ram z s
  refine ⟨⟨zext16_eq_ofNat b, rfl⟩, ⟨zext16_add_eq_ofNat b s.x, rfl⟩, ⟨zext16_add_eq_ofNat b s.y, rfl⟩, ⟨rfl, rfl⟩,
    ⟨add_zext16_eq_ofNat w s.x, pageCrossed_of_base rfl⟩, ⟨add_zext16_eq_ofNat w s.y, pageCrossed_of_base rfl⟩,
    ⟨hpointer _, rfl⟩, ?_, ?_⟩
  · rw [effectiveAddress, hpointer, add_zext16_eq_ofNat]
  · rw [← hpointer, pageCrossed_of_base rfl]

end Addresses

/-! The cycles of an instruction (R108, R109): what `exec` adds, as a function of the instruction, and then as the opcode
table has it. -/

section Cycles

/-- Cycles of a read-class instruction (R108, R109). -/
def readOperandCost : ReadOperand → State → Nat
  | .imm _, _ => 2
  | .mem m, s => readCost m s

/-- Cycles of a shift or rotate (R108). -/
def shiftOperandCost : ShiftOperand → Nat
  | .acc => 2
  | .mem m => rmwCycles m

/-- Cycles of a branch (R185). -/
def branchCost (taken : Bool) (off : Byte) (s : State) : Nat :=
  if taken then 2 + (1 + bitNat (hiByte (s.pc + 2) != hiByte (s.pc + 2 + sext16 off))) else 2

/-- Cycles an instruction takes in a state. -/
def instrCost (s : State) : Instr → Nat
  | .lda m | .ldx m | .ldy m | .adc m | .sbc m | .and m | .ora m | .eor m | .cmp m | .cpx m | .cpy m =>
    readOperandCost m s
  | .bit m => readCost m s
  | .sta m | .stx m | .sty m => writeCycles m
  | .asl m | .lsr m | .rol m | .ror m => shiftOperandCost m
  | .inc m | .dec m => rmwCycles m
  | .jmp (.abs _) | .pha | .php => 3
  | .pla | .plp => 4
  | .jmp (.ind _) => 5
  | .jsr _ | .rts | .rti => 6
  | .brk => 7
  | .bcc off => branchCost (!flagC s.p) off s
  | .bcs off => branchCost (flagC s.p) off s
  | .beq off => branchCost (flagZ s.p) off s
  | .bne off => branchCost (!flagZ s.p) off s
  | .bmi off => branchCost (flagN s.p) off s
  | .bpl off => branchCost (!flagN s.p) off s
  | .bvc off => branchCost (!flagV s.p) off s
  | .bvs off => branchCost (flagV s.p) off s
  | _ => 2

theorem readOperand_cycles (m : ReadOperand) (s : State) :
    (readOperand m s).2.cycles = s.cycles + readOperandCost m s := by
  cases m <;> simp [readOperand, readOperandCost]

theorem modifyMemory_cycles (f : Byte → Byte → Byte × Byte) (m : MemOperand) (s : State) :
    ∃ t, modifyMemory f m s = .next t ∧ t.cycles = s.cycles + rmwCycles m :=
  ⟨_, rfl, by simp⟩

theorem modify_cycles (f : Byte → Byte → Byte × Byte) (m : ShiftOperand) (s : State) :
    ∃ t, modify f m s = .next t ∧ t.cycles = s.cycles + shiftOperandCost m := by
  cases m with
  | acc => exact ⟨_, rfl, rfl⟩
  | mem m => exact modifyMemory_cycles f m s

theorem branchIf_cycles (taken : Bool) (off : Byte) (s : State) :
    ∃ t, branchIf taken off s = .next t ∧ t.cycles = s.cycles + branchCost taken off s := by
  cases taken with
  | false => exact ⟨_, rfl, rfl⟩
  | true => exact ⟨_, rfl, Nat.add_assoc _ _ _⟩

/-- Every instruction completes and adds its cost (R93). -/
theorem exec_cycles (i : Instr) (s : State) : ∃ t, exec i s = .next t ∧ t.cycles = s.cycles + instrCost s i := by
  cases i with
  | lda m | ldx m | ldy m | adc m | sbc m | and m | ora m | eor m | cmp m | cpx m | cpy m =>
    exact ⟨_, rfl, readOperand_cycles m s⟩
  | bit m => exact ⟨_, rfl, readOperand_cycles (.mem m) s⟩
  | sta m | stx m | sty m => exact ⟨_, rfl, memWrite_cycles _ _ _⟩
  | asl m | lsr m | rol m | ror m => exact modify_cycles _ m s
  | inc m | dec m => exact modifyMemory_cycles _ m s
  | jmp t =>
    cases t with
    | abs w => exact ⟨_, rfl, rfl⟩
    | ind w => exact ⟨_, rfl, show _ = s.cycles + 5 by simp [read16Wrap]⟩
  | jsr w => exact ⟨_, rfl, show _ = s.cycles + 6 by simp [pushWord_eq]⟩
  | rts => exact ⟨_, rfl, show _ = s.cycles + 6 by simp [pullWord_eq]⟩
  | rti => exact ⟨_, rfl, show _ = s.cycles + 6 by simp [returnFromInterrupt, pull_eq, pullWord_eq]⟩
  | brk => exact ⟨_, rfl, show _ = s.cycles + 7 by simp [interruptEntry_eq, EntryKind.ownCycles]⟩
  | bcc off | bcs off | beq off | bne off | bmi off | bpl off | bvc off | bvs off => exact branchIf_cycles _ off s
  | pha | php => exact ⟨_, rfl, show _ = s.cycles + 3 by simp [push_eq]⟩
  | pla | plp => exact ⟨_, rfl, show _ = s.cycles + 4 by simp [pull_eq]⟩
  | _ => exact ⟨_, rfl, rfl⟩

/-- Base cycles of an opcode byte (R108, R111). -/
def baseCycles (op : Byte) : Nat := (cycleTable.getD (op.toNat / 16) []).getD (op.toNat % 16) 0

/-- The page-cross cycle of an opcode byte with its operand bytes (R109). -/
def penaltyCycles (op b1 b2 : Byte) (s : State) : Nat :=
  bitNat (decide (op.toNat ∈ penaltyOpcodes) && pageCrossed (penaltyOperand op b1 b2) s)

theorem opcodeCost_illegal {op : Byte} (h : op ∈ illegalOpcodes) (b1 b2 : Byte) (s : State) :
    baseCycles op + penaltyCycles op b1 b2 s = 2 := by
  have listed : illegalOpcodes.map (fun o => baseCycles o + penaltyCycles o b1 b2 s) = illegalOpcodes.map fun _ => 2 :=
    rfl
  exact List.map_inj_left.1 listed op h

/-- The cost of an instruction is that of the opcode table at its opcode byte, the branches apart: their opcode bytes are
column 0 of the odd rows. -/
theorem instrCost_of_opcode {i : Instr} {op b1 b2 : Byte} (ho : i.opcode = some op) (hb : i.operandBytes <+: [b1, b2])
    (hbranch : op.toNat % 32 ≠ 16) (s : State) : instrCost s i = baseCycles op + penaltyCycles op b1 b2 s := by
  cases i with
  | lda m | ldx m | ldy m | adc m | sbc m | and m | ora m | eor m | cmp m | cpx m | cpy m =>
    cases m with
    | imm b => cases ho; rfl
    | mem m => rcases MemOperand.eq_of_bytes hb with rfl | rfl | rfl | rfl | rfl | rfl | rfl | rfl <;> cases ho <;> rfl
  | sta m | stx m | sty m | bit m | inc m | dec m => cases m <;> cases ho <;> rfl
  | asl m | lsr m | rol m | ror m =>
    cases m with
    | acc => cases ho; rfl
    | mem m => cases m <;> cases ho <;> rfl
  | jmp t =>
    cases t with
    | abs w => obtain rfl : 0x4C = op := Option.some.inj ho; rfl
    | ind w => obtain rfl : 0x6C = op := Option.some.inj ho; rfl
  | bcc off | bcs off | beq off | bne off | bmi off | bpl off | bvc off | bvs off => cases ho; exact absurd rfl hbranch
  | illegal o => obtain ⟨rfl, h⟩ := opcode_illegal_iff.1 ho; exact (opcodeCost_illegal h b1 b2 s).symm
  | _ => cases ho; rfl

/-- Settles O18: `exec` adds the instruction's cost, and the instruction that an opcode byte decodes to has that byte as
its opcode. -/
theorem cycleCostOfEveryOpcode : Obligations.CycleCostOfEveryOpcode := by
  intro op b1 b2 s hbranch
  obtain ⟨t, hexec, hcycles⟩ := exec_cycles (decodeOp op b1 b2) s
  refine ⟨t, hexec, ?_⟩
  rw [hcycles, instrCost_of_opcode (opcode_decodeOp op b1 b2) (operandBytes_decodeOp op b1 b2) hbranch]
  simp [baseCycles, penaltyCycles, bitNat, Nat.add_assoc]

end Cycles

/-! An instruction's bytes at `PC` (R92, R93). -/

section Fetch

/-- The fetch reads as many bytes at `PC` as the length of the opcode byte there asks for, and answers the instruction
they decode to. -/
theorem fetch_eq (s : State) :
    let r := readBytes (opcodeLength (memRead s.pc s).1) s.pc s
    decode r.1 = .ok ((fetch s).1, []) ∧ (fetch s).2 = r.2 := by
  have hpc : s.pc + 1#16 + 1#16 = s.pc + 2#16 := BitVec.add_assoc _ _ _
  have hmax : opcodeLength (memRead s.pc s).1 ≤ 3 := Instr.length_le _
  have hmin : 1 ≤ opcodeLength (memRead s.pc s).1 := Instr.length_pos _
  obtain h | h | h : opcodeLength (memRead s.pc s).1 = 1 ∨ opcodeLength (memRead s.pc s).1 = 2 ∨
      opcodeLength (memRead s.pc s).1 = 3 := by omega
  all_goals simp [fetch, h, readBytes, decode, hpc]

theorem readBytes_succ (n : Nat) (a : Addr) (s : State) :
    (readBytes (n + 1) a s).1 = (memRead a s).1 :: (readBytes n (a + 1) (memRead a s).2).1 := rfl

/-- Where the bytes at `PC` decode to an instruction of as many bytes, the fetch answers it and the state after the
reads. -/
theorem fetch_of_decode {s : State} {i : Instr} (h : decode (readBytes i.length s.pc s).1 = .ok (i, [])) :
    fetch s = (i, (readBytes i.length s.pc s).2) := by
  obtain ⟨op, os, hbytes, -, hdecode⟩ := decode_eq_ok h
  have hop : (memRead s.pc s).1 = op := by
    rw [← operandBytes_length, readBytes_succ] at hbytes
    exact (List.cons.inj hbytes).1
  have hlen : opcodeLength (memRead s.pc s).1 = i.length := by rw [hop, ← length_decodeOp, hdecode]
  obtain ⟨hfetch, hstate⟩ := fetch_eq s
  rw [hlen] at hfetch hstate
  have hi : (i, []) = ((fetch s).1, []) := Except.ok.inj (h.symm.trans hfetch)
  exact Prod.ext (congrArg Prod.fst hi).symm hstate

/-- With no stall, no NMI pending and IRQ masked or not asserted, a CPU step samples the line and runs an instruction
(R305, R307). -/
theorem cpuStep_of_no_interrupt {s : State} (hstall : s.stall = 0) (hnmi : s.nmiPending = false)
    (hirq : flagI s.p = true ∨ (irqSample s.env).1 = false) :
    cpuStep s = execInstruction (s.setEnv (irqSample s.env).2) := by
  have hline : (!s.flagI && (irqSample s.env).1) = false := by
    obtain h | h := hirq
    · have hflag : s.flagI = true := h
      rw [hflag]; rfl
    · rw [h, Bool.and_false]
  simp [cpuStep, hstall, hnmi, hline]

/-- Settles O12: no reset, no stall and no interrupt leave the instruction arm, whose fetch is `fetch_of_decode`. -/
theorem stepRunsDecodedInstruction : Obligations.StepRunsDecodedInstruction := by
  intro s t i hreset hstall hnmi hirq r hdecode hexec
  have hcpu : cpuStep s = .next t := by
    rw [cpuStep_of_no_interrupt hstall hnmi hirq, execInstruction, fetch_of_decode (s := s.setEnv _) hdecode]
    exact hexec
  rw [step_of_not_resetRequested hreset, globalStep, hcpu]
  rfl

end Fetch
end Sys2Proof.Machine

namespace Sys2Proof.Machine

/-! Loads, stores, transfers and index counts (R120 to R131, R167 to R170). Each family has one template in the model
(`loadWith`, `storeByte`, `registerOp`); what an instruction does follows from the template it is run by. -/

section LoadStoreTransfer

/-- A load is one read of the operand, its register written, and Z and N of the byte read (R120 to R122). -/
theorem loads_of_loadWith {i : ReadOperand → Instr} {put : Byte → State → State}
    (hexec : ∀ o s, exec (i o) s = loadWith put o s) (hput : ∀ b s, (put b s).p = s.p) :
    loads i fun s b => put b s := by
  intro o s r
  have hstatus : (put r.1 r.2).p = s.p := by rw [hput, operandOf_p]
  refine ⟨setZN r.1 s.p, ?_, onlyZN_setZN _ _⟩
  rw [hexec, loadWith, readOperand_eq, State.setZN, hstatus]
  rfl

/-- Settles O23: the three loads share one template, and their opcode bytes stand in the matrix of R110. -/
theorem loadsReadTheirOperand : Obligations.LoadsReadTheirOperand :=
  ⟨loads_of_loadWith (put := State.setA) (fun _ _ => rfl) State.setA_p,
    loads_of_loadWith (put := State.setX) (fun _ _ => rfl) State.setX_p,
    loads_of_loadWith (put := State.setY) (fun _ _ => rfl) State.setY_p,
    fun _ _ => rfl, fun _ _ => rfl, fun _ _ => rfl⟩

/-- The write class starts with the lengths and costs of R94 and R108, in each of the eight modes. -/
theorem start_writeCycles (m : MemOperand) (s : State) :
    s.start m.length (writeCycles m) = s.past (writeAdvance m) := by
  cases m <;> rfl

/-- A store is one write at the effective address (R123 to R125). -/
theorem stores_of_storeByte {i : MemOperand → Instr} {v : State → Byte}
    (hexec : ∀ m s, exec (i m) s = storeByte (v s) m s) : stores i v := by
  intro m s
  rw [hexec, storeByte, start_writeCycles]

/-- Settles O24: the three stores share one template, and their opcode bytes stand in the matrix of R110. -/
theorem storesWriteTheirRegister : Obligations.StoresWriteTheirRegister :=
  ⟨stores_of_storeByte fun _ _ => rfl, stores_of_storeByte fun _ _ => rfl, stores_of_storeByte fun _ _ => rfl,
    fun _ _ => rfl, fun _ _ => rfl, fun _ _ => rfl⟩

/-- A register operation writes its byte to its register and to Z and N, in one byte and two cycles (R126 to R130,
R167 to R170). -/
theorem movesByte_of_registerOp {i : Instr} {put : Byte → State → State} {v : State → Byte}
    (hexec : ∀ s, exec i s = registerOp put (v s) s) (hput : ∀ b s, (put b s).p = s.p) :
    movesByte i v fun s b => put b s := by
  intro s
  have hstatus : (put (v s) (s.start 1 2)).p = s.p := by rw [hput, State.start_p]
  refine ⟨setZN (v s) s.p, ?_, onlyZN_setZN _ _⟩
  rw [hexec, registerOp, State.setZN, hstatus]
  rfl

/-- Counting down is adding 255 modulo 256 (R169, R170). -/
theorem byte_sub_one (b : Byte) : b - 1 = BitVec.ofNat 8 (b.toNat + 255) := by
  rw [Nat.add_comm]; rfl

/-- Settles O25: nine of the ten are register operations; TXS writes `SP` and no flag (R131). -/
theorem transfersAndIndexCounts : Obligations.TransfersAndIndexCounts :=
  ⟨movesByte_of_registerOp (put := State.setX) (fun _ => rfl) State.setX_p,
    movesByte_of_registerOp (put := State.setY) (fun _ => rfl) State.setY_p,
    movesByte_of_registerOp (put := State.setA) (fun _ => rfl) State.setA_p,
    movesByte_of_registerOp (put := State.setA) (fun _ => rfl) State.setA_p,
    movesByte_of_registerOp (put := State.setX) (fun _ => rfl) State.setX_p,
    fun _ => rfl,
    movesByte_of_registerOp (put := State.setX) (fun _ => rfl) State.setX_p,
    movesByte_of_registerOp (put := State.setY) (fun _ => rfl) State.setY_p,
    movesByte_of_registerOp (put := State.setX) (fun _ => by rw [← byte_sub_one]; rfl) State.setX_p,
    movesByte_of_registerOp (put := State.setY) (fun _ => by rw [← byte_sub_one]; rfl) State.setY_p,
    fun _ _ => rfl⟩

/-- Settles O15: each word is run through the decoder. -/
theorem sampleWordsDecode : Obligations.SampleWordsDecode :=
  ⟨rfl, rfl, rfl, rfl, rfl, rfl, rfl, rfl, rfl, rfl⟩

end LoadStoreTransfer
end Sys2Proof.Machine

namespace Sys2Proof.Machine

/-! Arithmetic, logic, compares and the bit test (R140 to R150). Each reads its operand once, and then writes `A` and
the status, or the status alone; subtraction is addition of the complement, so its facts come from those of addition. -/

section ArithmeticLogic

/-- An operation of the accumulator is the operand's read, then its result in `A` and its status in `P`. -/
theorem accumulate_eq (f : Byte → Byte → Byte → Byte × Byte) (o : ReadOperand) (s : State) :
    let r := operandOf o s
    accumulate f o s = .next { r.2 with a := (f s.a r.1 s.p).1, p := (f s.a r.1 s.p).2 } := by
  simp only [accumulate, readOperand_eq, operandOf_a, operandOf_p]
  rfl

theorem bitNat_le_one (c : Bool) : bitNat c ≤ 1 := by cases c <;> decide

theorem ite_one_zero_eq_bitNat (c : Bool) : (if c then 1 else 0 : Int) = bitNat c := by cases c <;> rfl

/-- A borrow is the carry's complement (R143). -/
theorem ite_zero_one_eq_bitNat (c : Bool) : (if c then 0 else 1 : Int) = 1 - bitNat c := by cases c <;> rfl

/-- `$80` masks the sign bit. -/
theorem and_0x80_ne_zero (b : Byte) : ((b &&& 0x80) != 0) = b.msb := by
  have hmask : (0x80 : Byte) = BitVec.twoPow 8 7 := rfl
  rw [hmask, BitVec.and_twoPow, BitVec.msb_eq_getLsbD_last]
  cases b.getLsbD 7 <;> rfl

/-- The overflow bit of R142 and R143, from the addends `a` and `m` and the result `r`. -/
def overflowBit (a m r : Byte) : Bool := ((a ^^^ r) &&& (m ^^^ r) &&& 0x80) != 0

theorem overflowBit_eq_msb (a m r : Byte) : overflowBit a m r = ((a.msb ^^ r.msb) && (m.msb ^^ r.msb)) := by
  rw [overflowBit, and_0x80_ne_zero, BitVec.msb_and, BitVec.msb_xor, BitVec.msb_xor]

/-- The overflow bit of a sum says that the signed sum lies outside a byte's range (R140). -/
theorem overflowBit_sum (a m : Byte) (c : Bool) :
    let signed := a.toInt + m.toInt + (if c then 1 else 0)
    overflowBit a m (BitVec.ofNat 8 (a.toNat + m.toNat + bitNat c)) = decide (signed < -128 ∨ 127 < signed) := by
  have ha := a.isLt
  have hm := m.isLt
  have hc := bitNat_le_one c
  rw [ite_one_zero_eq_bitNat, overflowBit_eq_msb, Bool.eq_iff_iff]
  simp only [BitVec.msb_eq_decide, BitVec.toInt_eq_toNat_cond, BitVec.toNat_ofNat, Bool.and_eq_true, bne_iff_ne, ne_eq,
    decide_eq_true_eq, decide_eq_decide]
  omega

theorem addWithCarry_statusIs (a m p : Byte) :
    let sum := a.toNat + m.toNat + bitNat (flagC p)
    let result := BitVec.ofNat 8 sum
    statusIs p (addWithCarry a m p).2 (result.getLsbD 7) (overflowBit a m result) (flagD p) (flagI p) (result == 0)
      (decide (255 < sum)) :=
  statusIs_setZN _ _ _ _ _ _ _ _ _ (statusIs_putV _ _ _ _ _ _ _ _ _ (statusIs_putC _ _ _ _ _ _ _ _ _ (statusIs_self p)))

/-- Settles O26: ADC is an operation of the accumulator (`accumulate_eq`), and its overflow bit is the signed overflow
(`overflowBit_sum`). -/
theorem adcAddsWithCarry : Obligations.AdcAddsWithCarry :=
  ⟨fun o s => ⟨⟨_, accumulate_eq addWithCarry o s, addWithCarry_statusIs _ _ _⟩, overflowBit_sum _ _ _⟩,
    fun _ _ => rfl⟩

theorem subtractWithBorrow_eq (a m p : Byte) : subtractWithBorrow a m p = addWithCarry a (~~~m) p :=
  congrArg (addWithCarry a · p) BitVec.xor_allOnes

/-- The difference with its borrow is the complement's sum with the carry, less 256 (R143). -/
theorem difference_eq (a m : Byte) (c : Bool) :
    (a.toNat : Int) - (m.toNat : Int) - (if c then 0 else 1) =
      ((a.toNat + (~~~m).toNat + bitNat c : Nat) : Int) - 256 := by
  have hm := m.isLt
  rw [ite_zero_one_eq_bitNat, BitVec.toNat_not]
  omega

theorem signedDifference_eq (a m : Byte) (c : Bool) :
    a.toInt - m.toInt - (if c then 0 else 1) = a.toInt + (~~~m).toInt + (if c then 1 else 0) := by
  have hm := m.isLt
  simp only [ite_one_zero_eq_bitNat, ite_zero_one_eq_bitNat, BitVec.toInt_eq_toNat_cond, BitVec.toNat_not]
  omega

/-- The two forms of R143's overflow bit agree: in both the sign of `A` differs from the result's, and then the
complement's sign differs from it just when the sign of `M` differs from that of `A`. -/
theorem overflowBit_not (a m r : Byte) : (((a ^^^ m) &&& (a ^^^ r) &&& 0x80) != 0) = overflowBit a (~~~m) r := by
  rw [overflowBit_eq_msb, and_0x80_ne_zero, BitVec.msb_and, BitVec.msb_xor, BitVec.msb_xor, BitVec.msb_not]
  cases a.msb <;> cases m.msb <;> cases r.msb <;> rfl

theorem ofInt_difference (a m : Byte) (c : Bool) :
    BitVec.ofInt 8 ((a.toNat : Int) - (m.toNat : Int) - (if c then 0 else 1)) =
      BitVec.ofNat 8 (a.toNat + (~~~m).toNat + bitNat c) := by
  apply BitVec.eq_of_toNat_eq
  rw [difference_eq, BitVec.toNat_ofInt, BitVec.toNat_ofNat]
  omega

/-- No borrow is a carry out of the complement's sum (R140). -/
theorem difference_nonneg_iff (a m : Byte) (c : Bool) :
    (0 ≤ (a.toNat : Int) - (m.toNat : Int) - (if c then 0 else 1)) ↔ 255 < a.toNat + (~~~m).toNat + bitNat c := by
  rw [difference_eq]
  omega

/-- Settles O27: every part of the statement is the part of ADC's for the complement of the operand. -/
theorem sbcSubtractsWithBorrow : Obligations.SbcSubtractsWithBorrow := by
  refine ⟨fun o s => ?_, fun _ _ => rfl⟩
  have hexec := accumulate_eq subtractWithBorrow o s
  simp only [subtractWithBorrow_eq] at hexec
  simp only [ofInt_difference, difference_nonneg_iff, overflowBit_not, signedDifference_eq]
  exact ⟨⟨_, hexec, addWithCarry_statusIs _ _ _⟩, overflowBit_sum _ _ _⟩

/-- A bitwise operation writes its byte to `A` and to Z and N (R144 to R146). -/
theorem bitwise_of_logical {i : ReadOperand → Instr} {f : Byte → Byte → Byte}
    (hexec : ∀ o s, exec (i o) s = accumulate (logical f) o s) : bitwise i f := fun o s =>
  ⟨_, (hexec o s).trans (accumulate_eq (logical f) o s), onlyZN_setZN _ _⟩

/-- Settles O28: the three share one template, and their opcode bytes stand in the matrix of R110. -/
theorem logicCombinesWithA : Obligations.LogicCombinesWithA :=
  ⟨bitwise_of_logical fun _ _ => rfl, bitwise_of_logical fun _ _ => rfl, bitwise_of_logical fun _ _ => rfl,
    fun _ _ => rfl, fun _ _ => rfl, fun _ _ => rfl⟩

theorem compareFlags_statusIs (r m p : Byte) :
    statusIs p (compareFlags r m p) ((r - m).getLsbD 7) (flagV p) (flagD p) (flagI p) (r == m)
      (decide (m.toNat ≤ r.toNat)) :=
  statusIs_putN _ _ _ _ _ _ _ _ _ (statusIs_putZ _ _ _ _ _ _ _ _ _ (statusIs_putC _ _ _ _ _ _ _ _ _ (statusIs_self p)))

theorem bitTestFlags_statusIs (a m p : Byte) :
    statusIs p (bitTestFlags a m p) (m.getLsbD 7) (m.getLsbD 6) (flagD p) (flagI p) ((a &&& m) == 0) (flagC p) :=
  statusIs_putN _ _ _ _ _ _ _ _ _ (statusIs_putV _ _ _ _ _ _ _ _ _ (statusIs_putZ _ _ _ _ _ _ _ _ _ (statusIs_self p)))

/-- A comparison writes the status alone after the operand's read (R147 to R149). -/
theorem compares_of_compareWith {i : ReadOperand → Instr} {reg : State → Byte}
    (hexec : ∀ o s, exec (i o) s = compareWith reg o s) (hreg : ∀ o s, reg (operandOf o s).2 = reg s) :
    compares i reg := by
  intro o s r
  refine ⟨compareFlags (reg s) r.1 s.p, ?_, compareFlags_statusIs _ _ _⟩
  rw [hexec, compareWith, readOperand_eq, hreg, operandOf_p]
  rfl

theorem execBit_eq (m : MemOperand) (s : State) :
    let r := operandOf (.mem m) s
    execBit m s = .next { r.2 with p := bitTestFlags s.a r.1 s.p } := by
  intro r
  simp only [execBit, readOperand_eq, operandOf_a, operandOf_p]
  rfl

/-- Settles O29: the compares share one template, whose register the operand's read leaves alone. -/
theorem comparesAndBitSetFlagsOnly : Obligations.ComparesAndBitSetFlagsOnly :=
  ⟨compares_of_compareWith (fun _ _ => rfl) operandOf_a, compares_of_compareWith (fun _ _ => rfl) operandOf_x,
    compares_of_compareWith (fun _ _ => rfl) operandOf_y,
    fun m s _ => ⟨_, execBit_eq m s, bitTestFlags_statusIs _ _ _⟩, fun _ _ => rfl, fun _ _ => rfl⟩

end ArithmeticLogic

/-! The decimal flag (R141): nothing an operand's read or an addition does looks at a status bit but the carry. -/

section DecimalFlag

theorem memRead_setP (a : Addr) (q : Byte) (s : State) :
    memRead a (s.setP q) = ((memRead a s).1, (memRead a s).2.setP q) := by
  unfold memRead
  repeat' split
  all_goals rfl

theorem effectiveAddress_setP (m : MemOperand) (q : Byte) (s : State) :
    effectiveAddress m (s.setP q) = effectiveAddress m s := by
  cases m with
  | zp | zpX | zpY | abs | absX | absY => rfl
  | indX | indY => simp only [effectiveAddress, read16ZP, memRead_setP, State.setP_x, State.setP_y]

theorem readCost_setP (m : MemOperand) (q : Byte) (s : State) : readCost m (s.setP q) = readCost m s := by
  cases m with
  | zp | zpX | zpY | abs | absX | absY | indX => rfl
  | indY => simp only [readCost, pageCrossed, indexedBase, read16ZP, memRead_setP, State.setP_y]

theorem readOperand_setP (o : ReadOperand) (q : Byte) (s : State) :
    readOperand o (s.setP q) = ((readOperand o s).1, (readOperand o s).2.setP q) := by
  cases o with
  | imm b => rfl
  | mem m =>
    rw [readOperand, effectiveAddress_setP, readCost_setP]
    exact memRead_setP _ q (s.start m.length (readCost m s))

/-- Setting a bit outside a mask commutes with inverting the mask's bits. -/
theorem putBit_xor {i : Nat} (hi : i < 8) {mask : Byte} (hmask : mask.getLsbD i = false) (b : Bool) (p : Byte) :
    putBit i b (p ^^^ mask) = putBit i b p ^^^ mask := by
  refine BitVec.eq_of_getLsbD_eq fun j _ => ?_
  simp only [getLsbD_putBit hi, BitVec.getLsbD_xor]
  split
  · next h => rw [h, hmask, Bool.xor_false]
  · rfl

theorem setZN_xor_decimal (v p : Byte) : setZN v (p ^^^ 0x08) = setZN v p ^^^ 0x08 := by
  simp only [setZN, putN, putZ]
  rw [putBit_xor (by decide) (by decide), putBit_xor (by decide) (by decide)]

theorem flagC_xor_decimal (p : Byte) : flagC (p ^^^ 0x08) = flagC p := by
  rw [flagC, BitVec.getLsbD_xor]
  exact Bool.xor_false _

theorem addWithCarry_xor_decimal (a m p : Byte) :
    addWithCarry a m (p ^^^ 0x08) = ((addWithCarry a m p).1, (addWithCarry a m p).2 ^^^ 0x08) := by
  simp only [addWithCarry, flagC_xor_decimal, putC, putV]
  rw [putBit_xor (by decide) (by decide), putBit_xor (by decide) (by decide), setZN_xor_decimal]

/-- Inverting the decimal flag passes through an operation of the accumulator when it passes through its function. -/
theorem accumulate_xor_decimal {f : Byte → Byte → Byte → Byte × Byte}
    (hf : ∀ a m p, f a m (p ^^^ 0x08) = ((f a m p).1, (f a m p).2 ^^^ 0x08)) {o : ReadOperand} {s t : State}
    (h : accumulate f o s = .next t) :
    accumulate f o (s.setP (s.p ^^^ 0x08)) = .next (t.setP (t.p ^^^ 0x08)) := by
  have hp : (readOperand o s).2.p = s.p := by rw [readOperand_eq, operandOf_p]
  cases h
  simp only [accumulate, readOperand_setP, State.setP_a, State.setP_p, hp, hf]
  rfl

/-- Settles O30: both are operations of the accumulator by `addWithCarry`, which reads the carry alone of the status. -/
theorem decimalFlagIsIgnored : Obligations.DecimalFlagIsIgnored := by
  rintro o s t i (rfl | rfl) h
  · exact accumulate_xor_decimal addWithCarry_xor_decimal h
  · exact accumulate_xor_decimal (fun a m => addWithCarry_xor_decimal a (m ^^^ 0xFF)) h

end DecimalFlag
end Sys2Proof.Machine

namespace Sys2Proof.Machine

/-! Shifts, rotates and memory counts (R160 to R166). The accumulator's template and the memory's are run by one function
of the byte and the status; the function says what is computed, the template where it is read and written. -/

section ShiftRotateModify

/-- The function `f` of a byte and the status answers `new` of the byte and the old carry, and the status with Z and N
of that answer and the carry `carry`. -/
def modifiesByte (f : Byte → Byte → Byte × Byte) (new : Byte → Bool → Byte) (carry : Byte → Bool → Bool) : Prop :=
  ∀ old p : Byte, (f old p).1 = new old (flagC p) ∧ onlyZNC p (f old p).2 (new old (flagC p)) (carry old (flagC p))

variable {f : Byte → Byte → Byte × Byte} {new : Byte → Bool → Byte} {carry : Byte → Bool → Bool}

/-- A function that writes `new`, the carry, and then Z and N. -/
theorem modifiesByte_of_setZN_putC
    (hf : ∀ old p, f old p = (new old (flagC p), setZN (new old (flagC p)) (putC (carry old (flagC p)) p))) :
    modifiesByte f new carry := by
  intro old p
  rw [hf]
  exact ⟨rfl, onlyZNC_setZN _ _ _⟩

/-- A shift left is twice the byte modulo 256 (R161). -/
theorem shiftLeft_one_eq_ofNat (b : Byte) : b <<< 1 = BitVec.ofNat 8 (b.toNat * 2) :=
  BitVec.eq_of_toNat_eq (by rw [BitVec.toNat_shiftLeft, Nat.shiftLeft_eq, BitVec.toNat_ofNat])

/-- A shift right is half the byte (R162). -/
theorem ushiftRight_one_eq_ofNat (b : Byte) : b >>> 1 = BitVec.ofNat 8 (b.toNat / 2) := by
  have hb := b.isLt
  apply BitVec.eq_of_toNat_eq
  rw [BitVec.toNat_ushiftRight, Nat.shiftRight_eq_div_pow, BitVec.toNat_ofNat]
  omega

/-- A rotate left keeps the low eight of the nine bits of the byte with the carry below it (R163). -/
theorem putBit_shiftLeft_one (c : Bool) (b : Byte) : putBit 0 c (b <<< 1) = (b.concat c).setWidth 8 := by
  refine BitVec.eq_of_getLsbD_eq fun j hj => ?_
  rw [getLsbD_putBit (by decide), BitVec.getLsbD_setWidth, BitVec.getLsbD_concat, BitVec.getLsbD_shiftLeft]
  cases j with
  | zero => rfl
  | succ j => simp [hj]

theorem putBit_shiftLeft_one_eq_ofNat (c : Bool) (b : Byte) :
    putBit 0 c (b <<< 1) = BitVec.ofNat 8 (b.toNat * 2 + (if c then 1 else 0)) := by
  rw [putBit_shiftLeft_one]
  apply BitVec.eq_of_toNat_eq
  rw [BitVec.toNat_setWidth, BitVec.toNat_concat, BitVec.toNat_ofNat]
  cases c <;> rfl

/-- A rotate right keeps the high eight of the nine bits of the byte with the carry above it (R164). -/
theorem putBit_ushiftRight_one (c : Bool) (b : Byte) : putBit 7 c (b >>> 1) = (BitVec.cons c b).extractLsb' 1 8 := by
  refine BitVec.eq_of_getLsbD_eq fun j hj => ?_
  rw [getLsbD_putBit (by decide), BitVec.getLsbD_extractLsb', BitVec.getLsbD_cons, BitVec.getLsbD_ushiftRight]
  by_cases h : j = 7
  · simp [h]
  · have hlow : 1 + j ≠ 8 := by omega
    simp [h, hj, hlow]

theorem putBit_ushiftRight_one_eq_ofNat (c : Bool) (b : Byte) :
    putBit 7 c (b >>> 1) = BitVec.ofNat 8 (b.toNat / 2 + (if c then 128 else 0)) := by
  have hb := b.isLt
  rw [putBit_ushiftRight_one]
  apply BitVec.eq_of_toNat_eq
  rw [BitVec.extractLsb'_toNat, BitVec.toNat_cons', BitVec.toNat_ofNat, Nat.shiftRight_eq_div_pow, Nat.shiftLeft_eq]
  cases c with
  | false => rw [Bool.toNat_false, if_neg Bool.false_ne_true]; omega
  | true => rw [Bool.toNat_true, if_pos rfl]; omega

theorem shiftLeft_modifiesByte :
    modifiesByte shiftLeft (fun b _ => BitVec.ofNat 8 (b.toNat * 2)) (fun b _ => b.getLsbD 7) :=
  modifiesByte_of_setZN_putC fun _ _ => by rw [shiftLeft, shiftLeft_one_eq_ofNat]

theorem shiftRight_modifiesByte :
    modifiesByte shiftRight (fun b _ => BitVec.ofNat 8 (b.toNat / 2)) (fun b _ => b.getLsbD 0) :=
  modifiesByte_of_setZN_putC fun _ _ => by rw [shiftRight, ushiftRight_one_eq_ofNat]

theorem rotateLeft_modifiesByte :
    modifiesByte rotateLeft (fun b c => BitVec.ofNat 8 (b.toNat * 2 + (if c then 1 else 0)))
      (fun b _ => b.getLsbD 7) :=
  modifiesByte_of_setZN_putC fun _ _ => by rw [rotateLeft, putBit_shiftLeft_one_eq_ofNat]

theorem rotateRight_modifiesByte :
    modifiesByte rotateRight (fun b c => BitVec.ofNat 8 (b.toNat / 2 + (if c then 128 else 0)))
      (fun b _ => b.getLsbD 0) :=
  modifiesByte_of_setZN_putC fun _ _ => by rw [rotateRight, putBit_ushiftRight_one_eq_ofNat]

/-- A count up leaves the carry as it was (R165). -/
theorem increment_modifiesByte : modifiesByte increment (fun b _ => BitVec.ofNat 8 (b.toNat + 1)) (fun _ c => c) :=
  fun _ _ => ⟨rfl, onlyZN_setZN _ _⟩

/-- A count down leaves the carry as it was (R166). -/
theorem decrement_modifiesByte : modifiesByte decrement (fun b _ => BitVec.ofNat 8 (b.toNat + 255)) (fun _ c => c) := by
  intro old p
  rw [decrement, byte_sub_one]
  exact ⟨rfl, onlyZN_setZN _ _⟩

/-- The read-modify-write class starts with the lengths and costs of R94 and R108, in the four modes it has. -/
theorem start_rmwCycles {m : MemOperand} (hm : m.isX = true) (s : State) :
    s.start m.length (rmwCycles m) = s.past (modifyAdvance m) := by
  cases m with
  | zp | zpX | abs | absX => rfl
  | zpY | absY | indX | indY => exact absurd hm Bool.false_ne_true

/-- On the accumulator nothing is read or written but the register (R96, R160). -/
theorem modifiesAccumulator_of_modify {i : Instr} (hf : modifiesByte f new carry)
    (hexec : ∀ s, exec i s = modify f .acc s) : modifiesAccumulator i new carry := by
  intro s b
  obtain ⟨hnew, hstatus⟩ := hf s.a s.p
  refine ⟨(f s.a s.p).2, ?_, hstatus⟩
  rw [hexec, modify, hnew]
  rfl

/-- In memory the effective address is read once and then written once (R160). -/
theorem modifiesMemory_of_modifyMemory {i : MemOperand → Instr} (hf : modifiesByte f new carry)
    (hexec : ∀ m s, exec (i m) s = modifyMemory f m s) : modifiesMemory i new carry := by
  intro m s hm ea r b
  have hp : r.2.p = s.p := memRead_p ea (s.past (modifyAdvance m))
  obtain ⟨hnew, hstatus⟩ := hf r.1 s.p
  refine ⟨(f r.1 s.p).2, ?_, hstatus⟩
  calc exec (i m) s = .next ((memWrite ea (f r.1 r.2.p).1 r.2).setP (f r.1 r.2.p).2) := by
        rw [hexec, modifyMemory, start_rmwCycles hm]
    _ = .next ((memWrite ea b r.2).setP (f r.1 s.p).2) := by rw [hp, hnew]

end ShiftRotateModify

/-- Settles O31: six functions of a byte and the status, in the two templates; their opcode bytes stand in the matrix of
R110. -/
theorem shiftsAndReadModifyWrite : Obligations.ShiftsAndReadModifyWrite :=
  ⟨modifiesAccumulator_of_modify shiftLeft_modifiesByte fun _ => rfl,
    modifiesAccumulator_of_modify shiftRight_modifiesByte fun _ => rfl,
    modifiesAccumulator_of_modify rotateLeft_modifiesByte fun _ => rfl,
    modifiesAccumulator_of_modify rotateRight_modifiesByte fun _ => rfl,
    modifiesMemory_of_modifyMemory shiftLeft_modifiesByte fun _ _ => rfl,
    modifiesMemory_of_modifyMemory shiftRight_modifiesByte fun _ _ => rfl,
    modifiesMemory_of_modifyMemory rotateLeft_modifiesByte fun _ _ => rfl,
    modifiesMemory_of_modifyMemory rotateRight_modifiesByte fun _ _ => rfl,
    modifiesMemory_of_modifyMemory increment_modifiesByte fun _ _ => rfl,
    modifiesMemory_of_modifyMemory decrement_modifiesByte fun _ _ => rfl,
    fun _ _ => rfl, fun _ _ => rfl, fun _ _ => rfl, fun _ _ => rfl, fun _ _ => rfl, fun _ _ => rfl, fun _ _ => rfl⟩

end Sys2Proof.Machine

namespace Sys2Proof.Machine

/-! Control transfer (R180 to R193): jumps, the subroutine and interrupt pairs over the stack, and the branches. -/

section ControlFlow

/-- The pointer's second byte lies one further in the page of the first, as numbers (R58). -/
theorem word16_hiByte_loByte_add_one (w : Addr) :
    word16 (hiByte w) (loByte w + 1) = BitVec.ofNat 16 (w.toNat / 256 * 256 + (w.toNat + 1) % 256) := by
  have hlow : (loByte w + 1).toNat = (w.toNat + 1) % 256 := by
    rw [BitVec.toNat_add, loByte, BitVec.toNat_setWidth]
    exact Nat.mod_add_mod _ _ _
  have hw := w.isLt
  apply BitVec.eq_of_toNat_eq
  rw [word16_toNat, hiByte_toNat, hlow, BitVec.toNat_ofNat]
  omega

/-- The indirect jump reads its pointer before `PC` and `cycles` advance, and the reads change neither (R180). -/
theorem exec_jmp_ind (w : Addr) (s : State) :
    exec (.jmp (.ind w)) s =
      .next { (read16Wrap w s).2 with pc := (read16Wrap w s).1, cycles := s.cycles + 5 } := by
  have hcycles : (read16Wrap w s).2.cycles = s.cycles := by rw [read16Wrap, memRead_cycles, memRead_cycles]
  rw [← hcycles]
  rfl

/-- Settles O32: the absolute form is its definition, and the indirect form's pointer wraps inside its page. -/
theorem jumpsLoadPc : Obligations.JumpsLoadPc := by
  refine ⟨fun _ _ => rfl, fun w s => ?_, fun _ _ => rfl⟩
  rw [exec_jmp_ind, read16Wrap, word16_hiByte_loByte_add_one]
  rfl

/-- JSR as one record: the address of its third byte goes to the stack (R181). -/
theorem exec_jsr (w : Addr) (s : State) :
    exec (.jsr w) s =
      .next
        { s with
          pc := w
          cycles := s.cycles + 6
          sp := s.sp - 2
          ram :=
            (s.ram.write (ramIndex (word16 1 s.sp)) (hiByte (s.pc + 2))).write (ramIndex (word16 1 (s.sp - 1)))
              (loByte (s.pc + 2)) } := by
  have hret : (s.start 3 6).pc - 1 = s.pc + 2 := by
    rw [State.start_pc]
    bv_omega
  simp only [exec, execJsr, hret, pushWord_eq]
  rfl

/-- RTS as one record (R182). -/
theorem exec_rts (s : State) :
    exec .rts s =
      .next
        { s with
          pc := word16 (s.ramByte (word16 1 (s.sp + 2))) (s.ramByte (word16 1 (s.sp + 1))) + 1
          cycles := s.cycles + 6
          sp := s.sp + 2 } := by
  simp only [exec, execRts, pullWord_eq]
  rfl

/-- Settles O33: JSR's two writes of RAM are read back by `ramWith_cons`, RTS is its record. -/
theorem subroutineCallAndReturn : Obligations.SubroutineCallAndReturn :=
  ⟨fun w s => ⟨_, exec_jsr w s, ramWith_cons (ramWith_write _ _ _) _ _⟩, exec_rts, fun _ _ => rfl⟩

/-- RTI as one record: the status comes off the stack first, then `PC` (R183). -/
theorem exec_rti (s : State) :
    exec .rti s =
      .next
        { s with
          pc := word16 (s.ramByte (word16 1 (s.sp + 3))) (s.ramByte (word16 1 (s.sp + 2)))
          cycles := s.cycles + 6
          sp := s.sp + 3
          p := pulledStatus (s.ramByte (word16 1 (s.sp + 1))) } := by
  have hlow : s.sp + 1 + 1 = s.sp + 2 := BitVec.add_assoc _ _ _
  have hhigh : s.sp + 1 + 2 = s.sp + 3 := BitVec.add_assoc _ _ _
  simp only [exec, execRti, returnFromInterrupt, pull_eq, pullWord_eq, State.setP_sp, State.setSP_sp, State.start_sp,
    hlow, hhigh]
  rfl

/-- BRK as one record: its own entry, whose vector does not look at `nmi_pending` (R184, R335). -/
theorem exec_brk (s : State) :
    exec .brk s =
      .next
        { s with
          pc := word16 (cartCpuRead 0xFFFF (cartCpuRead 0xFFFE s.env).2).1 (cartCpuRead 0xFFFE s.env).1
          cycles := s.cycles + 7
          sp := s.sp - 3
          p := putI true s.p
          ram :=
            ((s.ram.write (ramIndex (word16 1 s.sp)) (hiByte (s.pc + 2))).write (ramIndex (word16 1 (s.sp - 1)))
              (loByte (s.pc + 2))).write (ramIndex (word16 1 (s.sp - 2))) (s.p ||| 0x30)
          env := (cartCpuRead 0xFFFF (cartCpuRead 0xFFFE s.env).2).2 } := by
  have hret : EntryKind.brk.returnAddress (s.start 1 7).pc = s.pc + 2 := by
    rw [EntryKind.returnAddress, State.start_pc]
    exact BitVec.add_assoc _ _ _
  simp only [exec, execBrk, interruptEntry_eq, hret, EntryKind.vector, read16_vecIrq]
  rfl

/-- Settles O34: RTI is its record; BRK sets `I` alone of the status, and its three writes of RAM are read back. -/
theorem softwareInterruptAndReturn : Obligations.SoftwareInterruptAndReturn :=
  ⟨exec_rti,
    fun s => ⟨_, _, exec_brk s, statusIs_putI _ _ _ _ _ _ _ _ _ (statusIs_self s.p),
      ramWith_cons (ramWith_cons (ramWith_write _ _ _) _ _) _ _⟩,
    fun _ _ => rfl⟩

/-- A signed offset added to an address, as numbers modulo 65536 (R106). -/
theorem add_sext16_eq_ofInt (w : Addr) (off : Byte) : w + sext16 off = BitVec.ofInt 16 (w.toNat + off.toInt) := by
  rw [BitVec.ofInt_add, BitVec.ofInt_natCast, BitVec.ofNat_toNat, BitVec.setWidth_eq]
  rfl

/-- A taken branch costs one cycle more, and another one to another page (R185). -/
theorem takenBranch_cycles_eq (h k : Byte) : 2 + (1 + bitNat (h != k)) = if h = k then 3 else 4 := by
  by_cases e : h = k <;> simp [bitNat, e]

/-- A branch instruction is the branch template on its condition (R185). -/
theorem branchesOn_of_branchIf {i : Byte → Instr} {cond : Byte → Bool}
    (hexec : ∀ off s, exec (i off) s = branchIf (cond s.p) off s) : branchesOn i cond := by
  intro off s next target
  have htarget : next + sext16 off = target := add_sext16_eq_ofInt next off
  rw [hexec]
  cases cond s.p with
  | false => rfl
  | true =>
    have hcycles : s.cycles + 2 + (1 + bitNat (hiByte next != hiByte target)) =
        s.cycles + if hiByte next = hiByte target then 3 else 4 := by
      rw [Nat.add_assoc, takenBranch_cycles_eq]
    rw [if_pos rfl, ← hcycles, ← htarget]
    rfl

/-- Settles O37: the eight branches share one template, and their opcode bytes stand in the matrix of R110. -/
theorem branchesTestTheirFlag : Obligations.BranchesTestTheirFlag :=
  ⟨branchesOn_of_branchIf fun _ _ => rfl, branchesOn_of_branchIf fun _ _ => rfl,
    branchesOn_of_branchIf fun _ _ => rfl, branchesOn_of_branchIf fun _ _ => rfl,
    branchesOn_of_branchIf fun _ _ => rfl, branchesOn_of_branchIf fun _ _ => rfl,
    branchesOn_of_branchIf fun _ _ => rfl, branchesOn_of_branchIf fun _ _ => rfl, fun _ _ => rfl⟩

end ControlFlow
end Sys2Proof.Machine

namespace Sys2Proof.Machine

/-! The stack, flag and no-operation instructions (R200 to R215): a push and a pull as records of the whole state, and
the one template of the seven flag instructions. -/

section StackFlagsNoOps

/-- A push by an instruction of one byte and three cycles, as one record (R200, R201). -/
theorem push_start (b : Byte) (s : State) :
    push b (s.start 1 3) =
      { s with
        pc := s.pc + 1
        cycles := s.cycles + 3
        sp := s.sp - 1
        ram := s.ram.write (ramIndex (word16 1 s.sp)) b } := by
  rw [push_eq]
  rfl

/-- PLA as one record: the byte above the stack pointer is the new `A`, and sets Z and N (R202). -/
theorem exec_pla (s : State) :
    exec .pla s =
      .next
        { s with
          pc := s.pc + 1
          cycles := s.cycles + 4
          sp := s.sp + 1
          a := s.ramByte (word16 1 (s.sp + 1))
          p := setZN (s.ramByte (word16 1 (s.sp + 1))) s.p } := by
  simp only [exec, execPla, pull_eq]
  rfl

/-- PLP as one record (R203). -/
theorem exec_plp (s : State) :
    exec .plp s =
      .next
        { s with
          pc := s.pc + 1
          cycles := s.cycles + 4
          sp := s.sp + 1
          p := pulledStatus (s.ramByte (word16 1 (s.sp + 1))) } := by
  simp only [exec, execPlp, pull_eq]
  rfl

/-- Settles O38: PHA and PHP are the push of `push_start`, whose write is read back by `ramWith_write`; PLA and PLP are
their records. -/
theorem stackInstructions : Obligations.StackInstructions :=
  ⟨fun s => ⟨_, congrArg Host.Outcome.next (push_start s.a s), ramWith_write _ _ _⟩,
    fun s => ⟨_, congrArg Host.Outcome.next (push_start (s.p ||| 0x30) s), ramWith_write _ _ _⟩,
    fun s => ⟨_, exec_pla s, onlyZN_setZN _ _⟩, exec_plp, fun _ _ => rfl⟩

/-- An instruction of the status template changes only the status, to what its flag function answers (R204 to R210). -/
theorem changesStatusOnly_of_statusOp {i : Instr} {f : Byte → Byte} {R : Byte → Byte → Prop}
    (hexec : ∀ s, exec i s = statusOp f s) (hf : ∀ p, R p (f p)) : changesStatusOnly i R :=
  fun s => ⟨f s.p, hexec s, hf s.p⟩

/-- Settles O39: each flag instruction puts one flag through the status template, so the others are those of `P`
itself; NOP and the illegal opcodes only start. -/
theorem flagInstructionsAndNoOps : Obligations.FlagInstructionsAndNoOps := by
  refine ⟨?clc, ?sec, ?cli, ?sei, ?clv, ?cld, ?sed, fun _ => rfl, fun _ _ => rfl, fun _ _ => rfl⟩
  case clc | sec =>
    exact changesStatusOnly_of_statusOp (fun _ => rfl) fun p => statusIs_putC _ _ _ _ _ _ _ _ _ (statusIs_self p)
  case cli | sei =>
    exact changesStatusOnly_of_statusOp (fun _ => rfl) fun p => statusIs_putI _ _ _ _ _ _ _ _ _ (statusIs_self p)
  case clv =>
    exact changesStatusOnly_of_statusOp (fun _ => rfl) fun p => statusIs_putV _ _ _ _ _ _ _ _ _ (statusIs_self p)
  case cld | sed =>
    exact changesStatusOnly_of_statusOp (fun _ => rfl) fun p => statusIs_putD _ _ _ _ _ _ _ _ _ (statusIs_self p)

end StackFlagsNoOps
end Sys2Proof.Machine

namespace Sys2Proof.Machine

/-! The fields of the scroll registers (R25, R26): one rule for what the ports do to `t`, which is to mask a field and
OR a new one in, and what the spec's field names then read. -/

section ScrollFields

/-- `t` with `x` in its `n` bits from `lo` up, as the ports write it: mask, then OR (R229 to R232). -/
def putField {n : Nat} (lo : Nat) (x : BitVec n) (t : BitVec 15) : BitVec 15 :=
  (t &&& ~~~((BitVec.allOnes n).setWidth 15 <<< lo)) ||| (x.setWidth 15 <<< lo)

variable {lo n : Nat} (x : BitVec n) (t : BitVec 15)

theorem putField_zero : putField 0 x t = (t &&& ~~~(BitVec.allOnes n).setWidth 15) ||| x.setWidth 15 := by
  rw [putField, BitVec.shiftLeft_zero, BitVec.shiftLeft_zero]

theorem getLsbD_putField_inside {k : Nat} (hk : lo + k < 15) (hn : k < n) :
    (putField lo x t).getLsbD (lo + k) = x.getLsbD k := by
  simp [putField, hk, hn]

theorem getLsbD_putField_outside {k : Nat} (h : k < lo ∨ lo + n ≤ k) : (putField lo x t).getLsbD k = t.getLsbD k := by
  obtain hk | hk := Nat.lt_or_ge k 15
  · obtain h | h := h
    · simp [putField, hk, h]
    · have hx : x.getLsbD (k - lo) = false := BitVec.getLsbD_of_ge x _ (by omega)
      have hmask : ¬ k - lo < n := by omega
      simp [putField, hk, hx, hmask]
  · rw [BitVec.getLsbD_of_ge _ _ hk, BitVec.getLsbD_of_ge _ _ hk]

/-- The low bits of the field written read back. -/
theorem field_putField_low {m : Nat} (hm : m ≤ n) (h : lo + m ≤ 15) : field (putField lo x t) lo m = x.setWidth m := by
  refine BitVec.eq_of_getLsbD_eq fun k hk => ?_
  rw [field, BitVec.getLsbD_extractLsb', getLsbD_putField_inside x t (by omega) (by omega), BitVec.getLsbD_setWidth]

theorem field_putField_same (h : lo + n ≤ 15) : field (putField lo x t) lo n = x := by
  rw [field_putField_low x t le_rfl h, BitVec.setWidth_eq]

theorem field_putField_other {j m : Nat} (h : j + m ≤ lo ∨ lo + n ≤ j) :
    field (putField lo x t) j m = field t j m := by
  refine BitVec.eq_of_getLsbD_eq fun k hk => ?_
  rw [field, field, BitVec.getLsbD_extractLsb', BitVec.getLsbD_extractLsb', getLsbD_putField_outside x t (by omega)]

theorem sameOutside_putField : sameOutside t (putField lo x t) lo (lo + n) :=
  fun _ h => getLsbD_putField_outside x t h

/-- A field of seven bits above one of eight is the whole register. -/
theorem putField_low_high (h : BitVec 7) (l : BitVec 8) : putField 0 l (putField 8 h t) = h ++ l := by
  refine BitVec.eq_of_getLsbD_eq fun k hk => ?_
  rw [BitVec.getLsbD_append]
  split
  · next hl => simpa using getLsbD_putField_inside (lo := 0) l (putField 8 h t) (by omega) hl
  · next hl =>
    obtain ⟨j, rfl⟩ : ∃ j, k = 8 + j := ⟨k - 8, by omega⟩
    rw [getLsbD_putField_outside _ _ (by omega), getLsbD_putField_inside h t hk (by omega), Nat.add_sub_cancel_left]

/-- A byte's low `m` bits by a mask, as the ports take them. -/
theorem setWidth_and_low (b : Byte) (m : Nat) :
    (b &&& (BitVec.allOnes m).setWidth 8).setWidth 15 = (b.extractLsb' 0 m).setWidth 15 := by
  refine BitVec.eq_of_getLsbD_eq fun k _ => ?_
  simp only [BitVec.getLsbD_setWidth, BitVec.getLsbD_and, BitVec.getLsbD_allOnes, BitVec.getLsbD_extractLsb',
    Nat.zero_add]
  obtain hk | hk := Nat.lt_or_ge k 8
  · rw [decide_eq_true hk, Bool.true_and, Bool.and_comm (b.getLsbD k)]
  · simp only [BitVec.getLsbD_of_ge b k hk, Bool.false_and, Bool.and_false]

/-- A byte's high five bits by a shift, as the $2005 writes take them (R229, R230). -/
theorem setWidth_ushiftRight_three (b : Byte) : (b >>> 3).setWidth 15 = (b.extractLsb' 3 5).setWidth 15 := by
  have hb : b.toNat / 2 ^ 3 < 2 ^ 5 := by omega
  refine BitVec.eq_of_toNat_eq ?_
  rw [BitVec.toNat_setWidth, BitVec.toNat_setWidth, BitVec.toNat_ushiftRight, BitVec.extractLsb'_toNat,
    Nat.shiftRight_eq_div_pow, Nat.mod_eq_of_lt hb]

/-- The two bytes of a $2006 pair as a number (R231, R232). -/
theorem address_append_eq_ofNat (c d : Byte) :
    (c.extractLsb' 0 6).setWidth 7 ++ d = BitVec.ofNat 15 (c.toNat % 64 * 256 + d.toNat) := by
  have hc : ((c.extractLsb' 0 6).setWidth 7).toNat = c.toNat % 64 := by
    rw [BitVec.toNat_setWidth, BitVec.extractLsb'_toNat, Nat.shiftRight_zero]
    omega
  have happend : ((c.extractLsb' 0 6).setWidth 7 ++ d).toNat = c.toNat % 64 * 256 + d.toNat := by
    rw [BitVec.toNat_append, ← Nat.shiftLeft_add_eq_or_of_lt d.isLt, Nat.shiftLeft_eq, hc]
  rw [← happend, BitVec.ofNat_toNat, BitVec.setWidth_eq]

end ScrollFields

/-! The $2005 and $2006 writes (R229 to R232): each half as one record. -/

section ScrollAndAddressPorts

/-- The first $2005 write: coarse X and fine X (R229). -/
theorem portWrite_scroll_first (b : Byte) {g : Video} (hw : g.ppu.w = false) :
    portWrite 5 b g =
      { g with
        ppu :=
          { g.ppu with
            ioLatch := b
            t := putField 0 (b.extractLsb' 3 5) g.ppu.t
            x := b.extractLsb' 0 3
            w := true } } := by
  rw [putField_zero, ← setWidth_ushiftRight_three]
  exact congrArg (Video.mk · g.env) (if_neg (ne_true_of_eq_false hw))

/-- The second $2005 write: fine Y, then coarse Y (R230). -/
theorem portWrite_scroll_second (b : Byte) {g : Video} (hw : g.ppu.w = true) :
    portWrite 5 b g =
      { g with
        ppu :=
          { g.ppu with
            ioLatch := b
            t := putField 5 (b.extractLsb' 3 5) (putField 12 (b.extractLsb' 0 3) g.ppu.t)
            w := false } } := by
  simp only [putField, ← setWidth_ushiftRight_three, ← setWidth_and_low]
  exact congrArg (Video.mk · g.env) (if_pos hw)

/-- The first $2006 write: the byte's low six bits and bit 14 cleared, which is one field of seven bits (R231). -/
theorem portWrite_address_first (b : Byte) {g : Video} (hw : g.ppu.w = false) :
    portWrite 6 b g =
      { g with
        ppu :=
          { g.ppu with ioLatch := b, t := putField 8 ((b.extractLsb' 0 6).setWidth 7) g.ppu.t, w := true } } := by
  rw [putField, BitVec.setWidth_setWidth (by decide), ← setWidth_and_low]
  exact congrArg (Video.mk · g.env) (if_neg (ne_true_of_eq_false hw))

/-- The second $2006 write: the low byte, and `t` into `v` (R232). -/
theorem portWrite_address_second (b : Byte) {g : Video} (hw : g.ppu.w = true) :
    portWrite 6 b g =
      { g with
        ppu := { g.ppu with ioLatch := b, t := putField 0 b g.ppu.t, v := putField 0 b g.ppu.t, w := false } } := by
  rw [putField_zero]
  exact congrArg (Video.mk · g.env) (if_pos hw)

/-- Settles O43: the four records, read field by field; in a row they toggle `w` four times, and the two address halves
determine all of `t`. -/
theorem scrollAndAddressWrites : Obligations.ScrollAndAddressWrites := by
  refine ⟨fun b g => ⟨?scroll1, ?scroll2, ?address1, ?address2⟩, ?four⟩
  case scroll1 =>
    intro hw
    exact ⟨_, portWrite_scroll_first b hw, field_putField_same _ _ (by decide), sameOutside_putField _ _⟩
  case scroll2 =>
    intro hw
    refine ⟨_, portWrite_scroll_second b hw, ?_, field_putField_same _ _ (by decide), ?_, ?_⟩
    · rw [field_putField_other _ _ (by decide), field_putField_same _ _ (by decide)]
    · rw [field_putField_other _ _ (by decide), field_putField_other _ _ (by decide)]
    · rw [field_putField_other _ _ (by decide), field_putField_other _ _ (by decide)]
  case address1 =>
    intro hw
    refine ⟨_, portWrite_address_first b hw, ?_, ?_, field_putField_other _ _ (by decide)⟩
    · rw [field_putField_low _ _ (by decide) (by decide), BitVec.setWidth_setWidth_of_le _ (by decide),
        BitVec.setWidth_eq]
    · rw [getLsbD_putField_inside (k := 6) _ _ (by decide) (by decide), BitVec.getLsbD_setWidth,
        BitVec.getLsbD_of_ge _ 6 le_rfl, Bool.and_false]
  case address2 =>
    intro hw
    exact ⟨_, portWrite_address_second b hw, field_putField_same _ _ (by decide), sameOutside_putField _ _⟩
  case four =>
    intro a b c d g hw n
    have hn (t : BitVec 15) : putField 0 d (putField 8 ((c.extractLsb' 0 6).setWidth 7) t) = n := by
      rw [putField_low_high, address_append_eq_ofNat]
    rw [portWrite_scroll_first a hw, portWrite_scroll_second b rfl, portWrite_address_first c rfl,
      portWrite_address_second d rfl]
    simp only [hn]

end ScrollAndAddressPorts

/-! The data port $2007 (R233 to R235): the two reads and the write, each with the next `v`. -/

section DataPort

/-- The next `v` as the spec counts it, modulo $8000 (R235). -/
theorem incrementV_v (p : Ppu) :
    (incrementV p).v = BitVec.ofNat 15 (p.v.toNat + if p.control.increment then 32 else 1) := by
  rw [incrementV, BitVec.ofNat_add, BitVec.ofNat_toNat, BitVec.setWidth_eq]
  split <;> rfl

/-- From $1000 on, the 15-bit subtraction under the palette is the one on numbers (R233). -/
theorem setWidth_sub_0x1000 {v : BitVec 15} (h : 0x1000 ≤ v.toNat) :
    (v - 0x1000).setWidth 16 = BitVec.ofNat 16 (v.toNat - 0x1000) := by
  have hc : (0x1000 : BitVec 15).toNat = 0x1000 := rfl
  have hle : 0x1000 ≤ v := by rwa [BitVec.le_def, hc]
  rw [← BitVec.ofNat_toNat, BitVec.toNat_sub_of_le hle, hc]

/-- Below the palette a $2007 read answers the buffer and refills it with the byte read (R233). -/
theorem portRead_data_buffered {g : Video} {value : Byte × Env}
    (hvalue : ppuRead (g.ppu.v.setWidth 16) g.ppu g.env = value) (h : g.ppu.v.toNat % 0x4000 < 0x3F00) :
    portRead 7 g =
      (g.ppu.bufferedData,
        { ppu := { g.ppu with bufferedData := value.1, v := (incrementV g.ppu).v }, env := value.2 }) := by
  subst hvalue
  exact if_pos h

/-- In the palette it answers the byte read and refills the buffer with the one under the palette (R233). -/
theorem portRead_data_palette {g : Video} {value under : Byte × Env}
    (hvalue : ppuRead (g.ppu.v.setWidth 16) g.ppu g.env = value)
    (hunder : ppuRead ((g.ppu.v - 0x1000).setWidth 16) g.ppu value.2 = under)
    (h : ¬ g.ppu.v.toNat % 0x4000 < 0x3F00) :
    portRead 7 g =
      (value.1, { ppu := { g.ppu with bufferedData := under.1, v := (incrementV g.ppu).v }, env := under.2 }) := by
  subst hvalue hunder
  exact if_neg h

/-- A $2007 write is one of the PPU bus, which keeps `v` and the increment flag (R234). -/
theorem portWrite_data (b : Byte) (g : Video) :
    let h := ppuWrite (g.ppu.v.setWidth 16) b { g with ppu := { g.ppu with ioLatch := b } }
    portWrite 7 b g = { h with ppu := { h.ppu with v := (incrementV g.ppu).v } } := by
  simp only [portWrite, portEffect, writeData]
  obtain ⟨e, -⟩ | ⟨k, -, e⟩ | ⟨k, -, e⟩ :=
      ppuWrite_eq (g.ppu.v.setWidth 16) b { g with ppu := { g.ppu with ioLatch := b } } <;>
    rw [e] <;> rfl

/-- Settles O44: the three records of $2007, with the bus address and the next `v` as numbers. -/
theorem dataPortReadsAndWrites : Obligations.DataPortReadsAndWrites := by
  intro b g v next value under
  have hv : g.ppu.v.setWidth 16 = BitVec.ofNat 16 v := (BitVec.ofNat_toNat 16 g.ppu.v).symm
  have hnext : (incrementV g.ppu).v = next := incrementV_v g.ppu
  have hvalue : ppuRead (g.ppu.v.setWidth 16) g.ppu g.env = value := by rw [hv]
  refine ⟨?read, ?write⟩
  case read =>
    split
    · next h => rw [portRead_data_buffered hvalue h, hnext]
    · next h =>
      have hunder : ppuRead ((g.ppu.v - 0x1000).setWidth 16) g.ppu value.2 = under := by
        rw [setWidth_sub_0x1000 (by omega)]
      rw [portRead_data_palette hvalue hunder h, hnext]
  case write => rw [portWrite_data, hnext, hv]

end DataPort

/-! The control, status and OAM ports $2000 to $2004 (R221 to R228, R237 to R239). -/

section ControlStatusOamPorts

/-- Settles O40: each write is its record as it stands, once the shift of $2000's nametable bits is written as a
product. -/
theorem controlPortsStoreTheirBits : Obligations.ControlPortsStoreTheirBits := by
  intro b g
  refine ⟨?control, rfl, rfl, rfl⟩
  case control =>
    rw [portWrite, portEffect, writeControl, BitVec.shiftLeft_eq_mul_twoPow]
    rfl

/-- The three flags above the latch's low five bits (R225). -/
theorem getLsbD_statusByte (p : Ppu) (k : Nat) :
    (statusByte p).getLsbD k =
      if k = 7 then p.nmiOccurred else if k = 6 then p.spriteZeroHit else if k = 5 then p.spriteOverflow
      else (p.ioLatch &&& 0x1F).getLsbD k := by
  rw [statusByte, getLsbD_putBit (by decide), getLsbD_putBit (by decide), getLsbD_putBit (by decide)]

/-- With the flag cleared the NMI level is low, so the edge detector starts nothing (R225, R340). -/
theorem readStatus_snd (p : Ppu) :
    (readStatus p).2 = { p with nmiOccurred := false, nmiPrev := false, w := false } := by
  simp only [readStatus, nmiChange, Ppu.nmiLevel, Bool.and_false, Bool.false_and, Bool.false_eq_true, if_false]

/-- Settles O41: the bits of `statusByte` and the clears of `readStatus_snd`; every other port listed answers the
latch. -/
theorem statusReadAnswersAndClears : Obligations.StatusReadAnswersAndClears := by
  intro g
  have hbit := getLsbD_statusByte g.ppu
  refine ⟨fun k hk => ?low, hbit 5, hbit 6, hbit 7, congrArg (Video.mk · g.env) (readStatus_snd g.ppu), ?others⟩
  case low =>
    have hlow : ∀ j < 5, (0x1F : Byte).getLsbD j = true := by decide
    refine (hbit k).trans ?_
    rw [if_neg (by omega), if_neg (by omega), if_neg (by omega), BitVec.getLsbD_and, hlow k hk, Bool.and_true]
  case others =>
    intro n hn
    fin_cases hn <;> rfl

/-- Settles O42: the read is R227's as it stands; the write is a record with one OAM byte stored, and
`Memory.read_write` is its frame. -/
theorem oamPortReadsAndWrites : Obligations.OamPortReadsAndWrites :=
  fun b g => ⟨rfl, _, rfl, fun k => by simp only [Memory.read_write, eq_comm]⟩

end ControlStatusOamPorts
end Sys2Proof.Machine

namespace Sys2Proof.Machine

/-! The stages of a dot (R250 to R252): the windows of positions as arithmetic, and what each stage does inside its
window and outside it. -/

section Stages

/-- A line that fetches: a visible one or the pre-render line. -/
abbrev Ppu.onRenderLine (p : Ppu) : Prop := p.scanline < 240 ∨ p.scanline = 261

/-- A dot of the two fetch windows of a render line. -/
abbrev Ppu.inFetchWindow (p : Ppu) : Prop :=
  p.onRenderLine ∧ ((1 ≤ p.cycle ∧ p.cycle ≤ 256) ∨ (321 ≤ p.cycle ∧ p.cycle ≤ 336))

/-- A dot that draws a pixel. -/
abbrev Ppu.inPicture (p : Ppu) : Prop := p.scanline < 240 ∧ 1 ≤ p.cycle ∧ p.cycle ≤ 256

/-- A dot that copies Y (R268). -/
abbrev Ppu.inCopyY (p : Ppu) : Prop := p.scanline = 261 ∧ 280 ≤ p.cycle ∧ p.cycle ≤ 304

theorem Ppu.preLine_iff (p : Ppu) : p.preLine = true ↔ p.scanline = 261 := beq_iff_eq

theorem Ppu.visibleLine_iff (p : Ppu) : p.visibleLine = true ↔ p.scanline < 240 := decide_eq_true_iff

theorem Ppu.renderLine_iff (p : Ppu) : p.renderLine = true ↔ p.onRenderLine := by
  rw [renderLine, Bool.or_eq_true, preLine_iff, visibleLine_iff, or_comm]

theorem Ppu.visibleDot_iff (p : Ppu) : p.visibleDot = true ↔ 1 ≤ p.cycle ∧ p.cycle ≤ 256 := by
  rw [visibleDot, Bool.and_eq_true, decide_eq_true_iff, decide_eq_true_iff]

theorem Ppu.fetchDot_iff (p : Ppu) :
    p.fetchDot = true ↔ (1 ≤ p.cycle ∧ p.cycle ≤ 256) ∨ (321 ≤ p.cycle ∧ p.cycle ≤ 336) := by
  rw [fetchDot, Bool.or_eq_true, visibleDot_iff, prefetchDot, Bool.and_eq_true, decide_eq_true_iff,
    decide_eq_true_iff, or_comm]

/-- The counters do not decide whether rendering is enabled (R224). -/
@[simp] theorem tick_rendering (p : Ppu) : (tick p).rendering = p.rendering := by rw [tick_eq]; rfl

theorem pixelStage_of_picture {p : Ppu} (h : p.inPicture) : pixelStage p = renderPixel p :=
  if_pos (by rwa [Bool.and_eq_true, p.visibleLine_iff, p.visibleDot_iff])

theorem pixelStage_of_not_picture {p : Ppu} (h : ¬p.inPicture) : pixelStage p = p :=
  if_neg (by rwa [Bool.and_eq_true, p.visibleLine_iff, p.visibleDot_iff])

/-- On a fetch dot the pixel is drawn on the visible lines, in the first window. -/
theorem pixelStage_of_fetch {p : Ppu} (h : p.inFetchWindow) :
    pixelStage p = if p.scanline < 240 ∧ p.cycle ≤ 256 then renderPixel p else p := by
  split
  · next hdraw => exact pixelStage_of_picture (by omega)
  · next hdraw => exact pixelStage_of_not_picture (by omega)

/-- A pixel moves neither the position nor `v`, and does not decide whether rendering is enabled. -/
theorem pixelStage_keeps (p : Ppu) :
    (pixelStage p).cycle = p.cycle ∧ (pixelStage p).scanline = p.scanline ∧ (pixelStage p).v = p.v ∧
      (pixelStage p).rendering = p.rendering := by
  obtain ⟨_, _, h⟩ := pixelStage_eq p
  rw [h]
  exact ⟨rfl, rfl, rfl, rfl⟩

theorem fetchStage_of_fetch {g : Video} (h : g.ppu.inFetchWindow) :
    fetchStage g = fetchCase { g with ppu := { g.ppu with tileData := g.ppu.tileData <<< 4 } } :=
  if_pos (by rwa [Bool.and_eq_true, Ppu.renderLine_iff, Ppu.fetchDot_iff])

theorem fetchStage_of_not_fetch {g : Video} (h : ¬g.ppu.inFetchWindow) : fetchStage g = g :=
  if_neg (by rwa [Bool.and_eq_true, Ppu.renderLine_iff, Ppu.fetchDot_iff])

/-- A fetch moves neither the position nor `v`. -/
theorem fetchCase_keeps (g : Video) :
    (fetchCase g).ppu.cycle = g.ppu.cycle ∧ (fetchCase g).ppu.scanline = g.ppu.scanline ∧
      (fetchCase g).ppu.v = g.ppu.v := by
  obtain ⟨_, _, _, _, _, _, h⟩ := fetchCase_eq g
  rw [h]
  exact ⟨rfl, rfl, rfl⟩

/-- `fetchCase` as a chain of tests (R250). -/
theorem fetchCase_eq_ite (g : Video) :
    fetchCase g =
      if g.ppu.cycle % 8 = 1 then fetchNametableByte g
      else if g.ppu.cycle % 8 = 3 then fetchAttributeByte g
      else if g.ppu.cycle % 8 = 5 then fetchLowTileByte g
      else if g.ppu.cycle % 8 = 7 then fetchHighTileByte g
      else if g.ppu.cycle % 8 = 0 then { g with ppu := storeTileData g.ppu }
      else g := by
  have hr : g.ppu.cycle % 8 < 8 := Nat.mod_lt _ (by decide)
  unfold fetchCase
  generalize g.ppu.cycle % 8 = r at hr ⊢
  interval_cases r <;> rfl

/-- The scroll updates, with their windows as arithmetic (R250). -/
theorem scrollStage_eq (p : Ppu) :
    scrollStage p =
      { p with
        v :=
          let v1 := if p.inCopyY then copyY p.v p.t else p.v
          let v2 := if p.inFetchWindow ∧ p.cycle % 8 = 0 then incrementX v1 else v1
          let v3 := if p.onRenderLine ∧ p.cycle = 256 then incrementY v2 else v2
          if p.onRenderLine ∧ p.cycle = 257 then copyX v3 p.t else v3 } := by
  simp only [scrollStage, Bool.and_eq_true, Ppu.preLine_iff, Ppu.renderLine_iff, Ppu.fetchDot_iff, beq_iff_eq,
    decide_eq_true_iff]

/-- In a fetch window the scroll updates are the two increments (R265, R266). -/
theorem scrollStage_of_fetch {p : Ppu} (h : p.inFetchWindow) :
    scrollStage p =
      { p with
        v :=
          let v := if p.cycle % 8 = 0 then incrementX p.v else p.v
          if p.cycle = 256 then incrementY v else v } := by
  have hcopyY : ¬p.inCopyY := by omega
  have hcopyX : ¬(p.onRenderLine ∧ p.cycle = 257) := by omega
  simp only [scrollStage_eq, if_neg hcopyY, if_neg hcopyX, and_iff_right h]
  simp only [and_iff_right h.1]

theorem scrollStage_of_copyY {p : Ppu} (h : p.inCopyY) : scrollStage p = { p with v := copyY p.v p.t } := by
  have hcoarse : ¬(p.inFetchWindow ∧ p.cycle % 8 = 0) := by omega
  have hfine : ¬(p.onRenderLine ∧ p.cycle = 256) := by omega
  have hcopyX : ¬(p.onRenderLine ∧ p.cycle = 257) := by omega
  simp only [scrollStage_eq, if_pos h, if_neg hcoarse, if_neg hfine, if_neg hcopyX]

/-- At dot 257 a render line copies X, another line keeps `v` (R267). -/
theorem scrollStage_of_dot257 {p : Ppu} (h : p.cycle = 257) :
    scrollStage p = { p with v := if p.onRenderLine then copyX p.v p.t else p.v } := by
  have hcopyY : ¬p.inCopyY := by omega
  have hcoarse : ¬(p.inFetchWindow ∧ p.cycle % 8 = 0) := by omega
  have hfine : ¬(p.onRenderLine ∧ p.cycle = 256) := by omega
  simp only [scrollStage_eq, if_neg hcopyY, if_neg hcoarse, if_neg hfine, and_iff_left h]

theorem scrollStage_of_rest {p : Ppu} (hfetch : ¬p.inFetchWindow) (hcopyY : ¬p.inCopyY) (h257 : p.cycle ≠ 257) :
    scrollStage p = p := by
  have hcoarse : ¬(p.inFetchWindow ∧ p.cycle % 8 = 0) := fun h => hfetch h.1
  have hfine : ¬(p.onRenderLine ∧ p.cycle = 256) := by omega
  have hcopyX : ¬(p.onRenderLine ∧ p.cycle = 257) := fun h => h257 h.2
  simp only [scrollStage_eq, if_neg hcopyY, if_neg hcoarse, if_neg hfine, if_neg hcopyX]

theorem spriteStage_of_dot257 {g : Video} (h : g.ppu.cycle = 257) :
    spriteStage g =
      if g.ppu.scanline < 240 then evaluateSprites g else { g with ppu := { g.ppu with spriteCount := 0 } } := by
  simp only [spriteStage, h, beq_self_eq_true, if_true, Ppu.visibleLine_iff]

theorem spriteStage_of_ne {g : Video} (h : g.ppu.cycle ≠ 257) : spriteStage g = g := if_neg (by rwa [beq_iff_eq])

theorem renderStage_of_rendering {g : Video} (h : g.ppu.rendering = true) :
    renderStage g = spriteStage { fetchStage g with ppu := scrollStage (fetchStage g).ppu } := if_pos h

theorem renderStage_of_not_rendering {g : Video} (h : g.ppu.rendering = false) : renderStage g = g :=
  if_neg (ne_true_of_eq_false h)

/-- A dot of a fetch window shifts, fetches or stores, and increments (R250). -/
theorem renderStage_of_fetch {g : Video} (hr : g.ppu.rendering = true) (h : g.ppu.inFetchWindow) :
    renderStage g =
      let f := fetchCase { g with ppu := { g.ppu with tileData := g.ppu.tileData <<< 4 } }
      let v := if g.ppu.cycle % 8 = 0 then incrementX g.ppu.v else g.ppu.v
      { f with ppu := { f.ppu with v := if g.ppu.cycle = 256 then incrementY v else v } } := by
  rw [renderStage_of_rendering hr, fetchStage_of_fetch h]
  obtain ⟨hcycle, hline, hv⟩ := fetchCase_keeps { g with ppu := { g.ppu with tileData := g.ppu.tileData <<< 4 } }
  generalize fetchCase { g with ppu := { g.ppu with tileData := g.ppu.tileData <<< 4 } } = f at hcycle hline hv ⊢
  dsimp only at hcycle hline hv
  have hf : f.ppu.inFetchWindow := by omega
  have h257 : f.ppu.cycle ≠ 257 := by omega
  rw [scrollStage_of_fetch hf, ← hcycle, ← hv]
  exact spriteStage_of_ne (g := { f with ppu := { f.ppu with v := _ } }) h257

theorem renderStage_of_copyY {g : Video} (hr : g.ppu.rendering = true) (h : g.ppu.inCopyY) :
    renderStage g = { g with ppu := { g.ppu with v := copyY g.ppu.v g.ppu.t } } := by
  have hfetch : ¬g.ppu.inFetchWindow := by omega
  have h257 : g.ppu.cycle ≠ 257 := by omega
  rw [renderStage_of_rendering hr, fetchStage_of_not_fetch hfetch, scrollStage_of_copyY h]
  exact spriteStage_of_ne h257

/-- At dot 257 a visible line copies X and evaluates the sprites of the next line; another line empties the slots, the
pre-render line after copying X (R267, R271). -/
theorem renderStage_of_dot257 {g : Video} (hr : g.ppu.rendering = true) (h : g.ppu.cycle = 257) :
    renderStage g =
      if g.ppu.scanline < 240 then evaluateSprites { g with ppu := { g.ppu with v := copyX g.ppu.v g.ppu.t } }
      else
        { g with
          ppu :=
            { g.ppu with
              v := if g.ppu.scanline = 261 then copyX g.ppu.v g.ppu.t else g.ppu.v
              spriteCount := 0 } } := by
  have hfetch : ¬g.ppu.inFetchWindow := by omega
  rw [renderStage_of_rendering hr, fetchStage_of_not_fetch hfetch, scrollStage_of_dot257 h]
  have hsprites (v : BitVec 15) := spriteStage_of_dot257 (g := { g with ppu := { g.ppu with v := v } }) h
  rw [hsprites]
  by_cases hline : g.ppu.scanline < 240
  · rw [if_pos hline, if_pos hline, if_pos (Or.inl hline)]
  · rw [if_neg hline, if_neg hline]
    simp only [or_iff_right hline]

/-- Away from the fetch windows, the dots that copy Y and dot 257, rendering does nothing (R252). -/
theorem renderStage_of_rest {g : Video} (hfetch : ¬g.ppu.inFetchWindow) (hcopyY : ¬g.ppu.inCopyY)
    (h257 : g.ppu.cycle ≠ 257) : renderStage g = g := by
  cases h : g.ppu.rendering with
  | false => exact renderStage_of_not_rendering h
  | true =>
    rw [renderStage_of_rendering h, fetchStage_of_not_fetch hfetch, scrollStage_of_rest hfetch hcopyY h257]
    exact spriteStage_of_ne h257

theorem vblankStage_of_begin {g : Video} (hline : g.ppu.scanline = 241) (hdot : g.ppu.cycle = 1) :
    vblankStage g = setVerticalBlank g := by
  simp [vblankStage, hline, hdot]

theorem vblankStage_of_end {g : Video} (hline : g.ppu.scanline = 261) (hdot : g.ppu.cycle = 1) :
    vblankStage g = { g with ppu := clearVerticalBlank g.ppu } := by
  simp [vblankStage, Ppu.preLine, hline, hdot]

theorem vblankStage_of_rest {g : Video} (hbegin : ¬(g.ppu.scanline = 241 ∧ g.ppu.cycle = 1))
    (hend : ¬(g.ppu.scanline = 261 ∧ g.ppu.cycle = 1)) : vblankStage g = g := by
  simp [vblankStage, Ppu.preLine, hbegin, hend]

theorem vblankStage_of_ne_one {g : Video} (h : g.ppu.cycle ≠ 1) : vblankStage g = g :=
  vblankStage_of_rest (fun e => h e.2) (fun e => h e.2)

/-- On a render line the last stage runs on the first dot of the pre-render line alone (R291). -/
theorem vblankStage_of_renderLine {g : Video} (h : g.ppu.onRenderLine) :
    vblankStage g =
      if g.ppu.scanline = 261 ∧ g.ppu.cycle = 1 then { g with ppu := clearVerticalBlank g.ppu } else g := by
  split
  · next hend => exact vblankStage_of_end hend.1 hend.2
  · next hend => exact vblankStage_of_rest (by omega) hend

end Stages

/-! Whole dots (R250, R252, R283, R290, R291). -/

section Dots

/-- What a dot does at the position that the counters have moved to (R250). -/
def actOnDot (g : Video) : Video := vblankStage (renderStage { g with ppu := pixelStage g.ppu })

theorem ppuStep_eq_actOnDot (g : Video) : ppuStep g = actOnDot { g with ppu := tick g.ppu } := rfl

/-- Outside the picture the first stage does nothing. -/
theorem actOnDot_of_not_picture {g : Video} (h : ¬g.ppu.inPicture) : actOnDot g = vblankStage (renderStage g) := by
  rw [actOnDot, pixelStage_of_not_picture h]

/-- Settles O60: no stage has its window at an idle dot. -/
theorem idleDotsOnlyMoveTheCounters : Obligations.IdleDotsOnlyMoveTheCounters := by
  intro g t h
  have hpicture : ¬t.inPicture := by omega
  have hfetch : ¬t.inFetchWindow := by omega
  have hcopyY : ¬t.inCopyY := by omega
  have h257 : t.cycle ≠ 257 := by omega
  have hbegin : ¬(t.scanline = 241 ∧ t.cycle = 1) := by omega
  have hend : ¬(t.scanline = 261 ∧ t.cycle = 1) := by omega
  rw [ppuStep_eq_actOnDot, actOnDot_of_not_picture hpicture, renderStage_of_rest hfetch hcopyY h257,
    vblankStage_of_rest hbegin hend]

/-- Drawing and rendering move no counter, no mask flag and no frame. -/
theorem renderStage_pixelStage_keeps (g : Video) :
    let h := (renderStage { g with ppu := pixelStage g.ppu }).ppu
    h.cycle = g.ppu.cycle ∧ h.scanline = g.ppu.scanline ∧ h.frame = g.ppu.frame ∧ h.f = g.ppu.f ∧
      h.mask = g.ppu.mask ∧ h.framesSent = g.ppu.framesSent := by
  obtain ⟨_, _, hpixel⟩ := pixelStage_eq g.ppu
  obtain ⟨_, _, _, _, _, _, _, _, _, _, hrender, -⟩ := renderStage_eq { g with ppu := pixelStage g.ppu }
  rw [hrender, hpixel]
  exact ⟨rfl, rfl, rfl, rfl, rfl, rfl⟩

/-- `SetVerticalBlank` as one record: the level rises to `nmi_output` (R290, R340). -/
theorem setVerticalBlank_eq (g : Video) :
    setVerticalBlank g =
      { ppu :=
          { g.ppu with
            front := g.ppu.back
            back := g.ppu.front
            framesSent := g.ppu.framesSent + 1
            nmiOccurred := true
            nmiPrev := g.ppu.nmiOutput
            nmiDelay := if g.ppu.nmiOutput = true ∧ g.ppu.nmiPrev = false then 2 else g.ppu.nmiDelay }
        env := { g.env with token := Config.envNext g.env.token (.frameSink g.ppu.back) } } := by
  simp only [setVerticalBlank, nmiChange, Ppu.nmiLevel, Config.nmiDelay, Env.after, Bool.and_true, Bool.and_eq_true,
    Bool.not_eq_true']

/-- `ClearVerticalBlank` as one record: the level falls, which starts nothing (R291, R340). -/
theorem clearVerticalBlank_eq (p : Ppu) :
    clearVerticalBlank p =
      { p with nmiOccurred := false, nmiPrev := false, spriteZeroHit := false, spriteOverflow := false } := by
  simp only [clearVerticalBlank, nmiChange, Ppu.nmiLevel, Bool.and_false, Bool.false_and, Bool.false_eq_true, if_false]

/-- The vertical-blank stage hands a frame over at (241, 1) alone, and moves no counter and no mask flag. -/
theorem vblankStage_counters (g : Video) :
    let h := (vblankStage g).ppu
    h.cycle = g.ppu.cycle ∧ h.scanline = g.ppu.scanline ∧ h.frame = g.ppu.frame ∧ h.f = g.ppu.f ∧
      h.mask = g.ppu.mask ∧
      h.framesSent = g.ppu.framesSent + (if g.ppu.scanline = 241 ∧ g.ppu.cycle = 1 then 1 else 0) := by
  by_cases hbegin : g.ppu.scanline = 241 ∧ g.ppu.cycle = 1
  · rw [vblankStage_of_begin hbegin.1 hbegin.2, if_pos hbegin]
    exact ⟨rfl, rfl, rfl, rfl, rfl, rfl⟩
  · rw [if_neg hbegin]
    by_cases hend : g.ppu.scanline = 261 ∧ g.ppu.cycle = 1
    · rw [vblankStage_of_end hend.1 hend.2]
      exact ⟨rfl, rfl, rfl, rfl, rfl, rfl⟩
    · rw [vblankStage_of_rest hbegin hend]
      exact ⟨rfl, rfl, rfl, rfl, rfl, rfl⟩

/-- The counters after a dot are those of the tick; a frame is handed over at (241, 1) alone (R251, R290). -/
theorem ppuStep_counters (g : Video) :
    let t := tick g.ppu
    let q := (ppuStep g).ppu
    q.cycle = t.cycle ∧ q.scanline = t.scanline ∧ q.frame = t.frame ∧ q.f = t.f ∧ q.mask = g.ppu.mask ∧
      q.framesSent = g.ppu.framesSent + (if t.scanline = 241 ∧ t.cycle = 1 then 1 else 0) := by
  have hmask : (tick g.ppu).mask = g.ppu.mask := by rw [tick_eq]
  have hsent : (tick g.ppu).framesSent = g.ppu.framesSent := by rw [tick_eq]
  have hstages := vblankStage_counters (renderStage { g with ppu := pixelStage (tick g.ppu) })
  obtain ⟨hcycle, hline, hframe, hf, hm, hs⟩ := renderStage_pixelStage_keeps { g with ppu := tick g.ppu }
  rwa [hcycle, hline, hframe, hf, hm, hs, hmask, hsent] at hstages

/-- Settles O59: the two units as records, the two dots at which the last stage runs them, and the frame count of
`ppuStep_counters`. -/
theorem verticalBlankBeginsAndEnds : Obligations.VerticalBlankBeginsAndEnds := by
  intro g
  obtain ⟨-, -, -, -, -, hsent⟩ := ppuStep_counters g
  refine ⟨setVerticalBlank_eq g, clearVerticalBlank_eq g.ppu, ?begins, ?ends, hsent⟩
  case begins =>
    intro hline hdot
    have hpicture : ¬(tick g.ppu).inPicture := by omega
    have hfetch : ¬(tick g.ppu).inFetchWindow := by omega
    have hcopyY : ¬(tick g.ppu).inCopyY := by omega
    have h257 : (tick g.ppu).cycle ≠ 257 := by omega
    rw [ppuStep_eq_actOnDot, actOnDot_of_not_picture hpicture, renderStage_of_rest hfetch hcopyY h257,
      vblankStage_of_begin hline hdot]
  case ends =>
    intro hline hdot
    obtain ⟨hcycle, hscanline, -⟩ := renderStage_pixelStage_keeps { g with ppu := tick g.ppu }
    have hend := vblankStage_of_end (hscanline.trans hline) (hcycle.trans hdot)
    rw [ppuStep_eq_actOnDot, actOnDot, hend, clearVerticalBlank_eq]
    exact ⟨rfl, rfl, rfl, rfl⟩

/-- With both show flags 0 both layers of the picture are empty and the backdrop is drawn (R278 to R280, R283). -/
theorem renderPixel_of_not_rendering {p : Ppu} (h : p.rendering = false) :
    renderPixel p =
      { p with back := Grid.write p.back p.scanline (p.cycle - 1) ((readPalette 0 p).setWidth 6) } := by
  obtain ⟨hbackground, hsprites⟩ := Bool.or_eq_false_iff.1 h
  have hbg : backgroundPixel p = 0 := by rw [backgroundPixel, hbackground]; rfl
  have hsp : spritePixel p = (0, 0) := by rw [spritePixel, hsprites]; rfl
  have hopaque : opaquePixel 0 = false := rfl
  simp only [renderPixel, hbg, hsp, ite_self, muxColor, hopaque, Bool.false_and, Bool.or_false]

theorem ppuStep_of_not_rendering {g : Video} (h : g.ppu.rendering = false) :
    ppuStep g = vblankStage { g with ppu := pixelStage (tick g.ppu) } := by
  obtain ⟨-, -, -, hr⟩ := pixelStage_keeps (tick g.ppu)
  have hoff : (pixelStage (tick g.ppu)).rendering = false := hr.trans ((tick_rendering g.ppu).trans h)
  exact congrArg vblankStage (renderStage_of_not_rendering (g := { g with ppu := pixelStage (tick g.ppu) }) hoff)

/-- Neither drawing nor the vertical-blank stage touches the registers that rendering works on. -/
theorem vblankStage_pixelStage_keeps (p : Ppu) (e : Env) :
    let q := (vblankStage { ppu := pixelStage p, env := e }).ppu
    q.v = p.v ∧ q.tileData = p.tileData ∧ q.nametableByte = p.nametableByte ∧ q.attributeByte = p.attributeByte ∧
      q.lowTileByte = p.lowTileByte ∧ q.highTileByte = p.highTileByte ∧ q.spriteCount = p.spriteCount ∧
      q.sprites = p.sprites ∧ (p.scanline < 240 → q.back = (pixelStage p).back) := by
  obtain ⟨_, _, hpixel⟩ := pixelStage_eq p
  obtain ⟨_, _, _, _, _, _, _, _, _, hblank, hback⟩ := vblankStage_eq { ppu := pixelStage p, env := e }
  rw [hblank]
  rw [hpixel] at hback ⊢
  exact ⟨rfl, rfl, rfl, rfl, rfl, rfl, rfl, rfl, hback⟩

/-- Settles O58: the rendering stage does nothing, the pixel drawn is the backdrop, and the last stage keeps `back` on
the visible lines. -/
theorem renderingDisabledDrawsBackdrop : Obligations.RenderingDisabledDrawsBackdrop := by
  intro g hg t q
  have hq : q = (vblankStage { ppu := pixelStage t, env := g.env }).ppu :=
    congrArg Video.ppu (ppuStep_of_not_rendering hg)
  obtain ⟨hv, hdata, hname, hattr, hlow, hhigh, hcount, hslots, hback⟩ := vblankStage_pixelStage_keeps t g.env
  have htick : t = { g.ppu with cycle := t.cycle, scanline := t.scanline, frame := t.frame, f := t.f } := tick_eq g.ppu
  rw [← hq] at hv hdata hname hattr hlow hhigh hcount hslots hback
  rw [htick] at hv hdata hname hattr hlow hhigh hcount hslots
  refine ⟨hv, hdata, hname, hattr, hlow, hhigh, hcount, hslots, fun hline h1 h256 => ?_⟩
  have ht : t.rendering = false := (tick_rendering g.ppu).trans hg
  have hbackdrop : readPalette 0 t = readPalette 0 g.ppu := by rw [htick]; rfl
  rw [hback hline, pixelStage_of_picture ⟨hline, h1, h256⟩, renderPixel_of_not_rendering ht, Grid.read_write,
    if_pos ⟨rfl, rfl⟩, hbackdrop]

/-- One pixel further in the shift buffer, as a number (R250). -/
theorem shiftLeft_four_eq_ofNat (d : BitVec 64) : d <<< 4 = BitVec.ofNat 64 (d.toNat * 16) := by
  refine BitVec.eq_of_toNat_eq ?_
  rw [BitVec.toNat_shiftLeft, BitVec.toNat_ofNat, Nat.shiftLeft_eq]

/-- Settles O57: the pixel, the rendering stage and the vertical-blank stage, each at the position the counters have
moved to. -/
theorem renderingDotsRunTheirUnits : Obligations.RenderingDotsRunTheirUnits := by
  intro g hg t on
  have ht : t.rendering = true := (tick_rendering g.ppu).trans hg
  refine ⟨fun hline hdot => ?fetch, fun hline h280 h304 => ?copyY, fun hdot => ?dot257⟩
  case fetch =>
    intro p
    have hwindow : t.inFetchWindow := ⟨hline, hdot⟩
    have hp : pixelStage t = p := pixelStage_of_fetch hwindow
    obtain ⟨hcycle, hscanline, hv, hr⟩ := hp ▸ pixelStage_keeps t
    have hpwindow : p.inFetchWindow := by omega
    obtain ⟨hcycle', hscanline', -⟩ := renderStage_pixelStage_keeps { ppu := t, env := g.env }
    dsimp only at hcycle' hscanline'
    have hrenderLine : (renderStage { ppu := pixelStage t, env := g.env }).ppu.onRenderLine := by omega
    rw [ppuStep_eq_actOnDot, actOnDot, vblankStage_of_renderLine hrenderLine, hcycle', hscanline', hp,
      renderStage_of_fetch (g := { ppu := p, env := g.env }) (hr.trans ht) hpwindow, fetchCase_eq_ite,
      shiftLeft_four_eq_ofNat]
    clear_value p
    simp only [hcycle, hv]
    rfl
  case copyY =>
    have hcopyY : t.inCopyY := ⟨hline, h280, h304⟩
    have hpicture : ¬t.inPicture := by omega
    have h1 : t.cycle ≠ 1 := by omega
    rw [ppuStep_eq_actOnDot, actOnDot_of_not_picture hpicture, renderStage_of_copyY ht hcopyY]
    exact vblankStage_of_ne_one h1
  case dot257 =>
    have hpicture : ¬t.inPicture := by omega
    have hcycle : (renderStage (on (pixelStage t))).ppu.cycle = t.cycle := (renderStage_pixelStage_keeps (on t)).1
    have h1 : (renderStage (on (pixelStage t))).ppu.cycle ≠ 1 := by omega
    rw [ppuStep_eq_actOnDot, actOnDot, vblankStage_of_ne_one h1, pixelStage_of_not_picture hpicture]
    exact renderStage_of_dot257 (g := on t) ht hdot

end Dots

/-! The counters over a frame (R251, R290, R292). -/

section Frame

/-- Settles O47: the skipped dot, then the two wraps, in terms of the dot number. -/
theorem tickCountsDots : Obligations.TickCountsDots := by
  intro p hcycle hline n enabled m
  have hskip : (enabled && p.f && n == 261 * 341 + 339) = true ↔
      (Config.oddFrameSkip && p.rendering && p.f && p.scanline == 261 && p.cycle == 339) = true := by
    have hn : n = 261 * 341 + 339 ↔ p.scanline = 261 ∧ p.cycle = 339 := by omega
    simp only [Bool.and_eq_true, beq_iff_eq, hn, and_assoc, Config.oddFrameSkip, true_and]
    rfl
  unfold tick
  split
  · next h =>
    have hm : m = 0 := if_pos (hskip.2 h)
    rw [hm]
    rfl
  · next h =>
    have hm : m = (n + 1) % 89342 := if_neg (mt hskip.1 h)
    split
    · next hlast =>
      split
      · next hwrap =>
        have hm0 : m = 0 := by omega
        rw [hm0]
        rfl
      · next hwrap =>
        have hm0 : m ≠ 0 := by omega
        have hc : m % 341 = 0 := by omega
        have hl : m / 341 = p.scanline + 1 := by omega
        rw [if_neg hm0, if_neg hm0, hc, hl]
    · next hnext =>
      have hm0 : m ≠ 0 := by omega
      have hc : m % 341 = p.cycle + 1 := by omega
      have hl : m / 341 = p.scanline := by omega
      rw [if_neg hm0, if_neg hm0, hc, hl]

theorem ppuSteps_succ_first (n : Nat) (g : Video) : ppuSteps (n + 1) g = ppuSteps n (ppuStep g) := rfl

theorem ppuSteps_succ_last (n : Nat) (g : Video) : ppuSteps (n + 1) g = ppuStep (ppuSteps n g) := by
  induction n generalizing g with
  | zero => rfl
  | succ n ih => exact ih (ppuStep g)

/-- The last dot of a frame of full length (R251). -/
theorem tick_of_last_dot {p : Ppu} (hcycle : p.cycle = 340) (hline : p.scanline = 261) : tick p = nextFrame p := by
  simp [tick, hcycle, hline]

/-- The dots of the frame that `p` stands in: an odd rendered frame is one dot shorter (R251). -/
def Ppu.frameLength (p : Ppu) : Nat := if p.rendering && p.f then 89341 else 89342

/-- `q` stands `n` dots into the frame that begins with `p`: no wrap yet, and the frame is handed over from dot 82182,
which is (241, 1), on. -/
structure Ppu.DotsInto (p q : Ppu) (n : Nat) : Prop where
  cycle : q.cycle = n % 341
  scanline : q.scanline = n / 341
  frame : q.frame = p.frame
  f : q.f = p.f
  mask : q.mask = p.mask
  sent : q.framesSent = p.framesSent + (if 82182 ≤ n then 1 else 0)

/-- `q` stands at the first dot of the frame after `p`'s. -/
structure Ppu.BeginsNext (p q : Ppu) : Prop where
  cycle : q.cycle = 0
  scanline : q.scanline = 0
  frame : q.frame = p.frame + 1
  f : q.f = !p.f
  mask : q.mask = p.mask
  sent : q.framesSent = p.framesSent + 1

theorem Ppu.dotsInto_self {p : Ppu} (hcycle : p.cycle = 0) (hline : p.scanline = 0) : p.DotsInto p 0 :=
  ⟨hcycle, hline, rfl, rfl, rfl, rfl⟩

theorem Ppu.frameLength_cases (p : Ppu) :
    ((p.rendering && p.f) = true ∧ p.frameLength = 89341) ∨
      ((p.rendering && p.f) = false ∧ p.frameLength = 89342) := by
  cases h : p.rendering && p.f <;> simp [frameLength, h]

theorem Ppu.rendering_congr {p q : Ppu} (h : q.mask = p.mask) : q.rendering = p.rendering := by
  rw [rendering, rendering, h]

/-- The dot after the `n`th of a frame: the first of the next one after the last (R251). -/
theorem Ppu.DotsInto.tick_eq {p q : Ppu} {n : Nat} (h : p.DotsInto q n) (hn : n < p.frameLength) :
    tick q =
      let m := if n + 1 = p.frameLength then 0 else n + 1
      { q with
        cycle := m % 341, scanline := m / 341
        frame := if m = 0 then q.frame + 1 else q.frame
        f := if m = 0 then !q.f else q.f } := by
  obtain ⟨hcycle, hline, -, hf, hmask, -⟩ := h
  have hdot : q.scanline * 341 + q.cycle = n := by omega
  have hr : (q.mask.showBackground || q.mask.showSprites) = p.rendering := Ppu.rendering_congr hmask
  have hlen := p.frameLength_cases
  have hm : (if p.rendering && p.f && n == 261 * 341 + 339 then 0 else (n + 1) % 89342) =
      if n + 1 = p.frameLength then 0 else n + 1 := by
    obtain ⟨hodd, hshort⟩ | ⟨heven, hfull⟩ := hlen
    · rw [hodd, hshort, Bool.true_and]
      simp only [beq_iff_eq]
      split <;> split <;> omega
    · rw [heven, hfull, Bool.false_and, if_neg Bool.false_ne_true]
      split <;> omega
  rw [tickCountsDots q (by omega) (by omega)]
  simp only [hdot, hr, hf, hm]

/-- One dot inside a frame. -/
theorem Ppu.DotsInto.next {p : Ppu} {g : Video} {n : Nat} (h : p.DotsInto g.ppu n) (hn : n + 1 < p.frameLength) :
    p.DotsInto (ppuStep g).ppu (n + 1) := by
  have htick := h.tick_eq (Nat.lt_of_succ_lt hn)
  rw [if_neg (by omega)] at htick
  obtain ⟨hcycle, hline, hframe, hf, hmask, hsent⟩ := ppuStep_counters g
  rw [htick] at hcycle hline hframe hf hsent
  refine ⟨hcycle, hline, hframe.trans h.frame, hf.trans h.f, hmask.trans h.mask, ?_⟩
  rw [hsent, h.sent]
  dsimp only
  split <;> split <;> split <;> omega

/-- The last dot of a frame. -/
theorem Ppu.DotsInto.last {p : Ppu} {g : Video} {n : Nat} (h : p.DotsInto g.ppu n) (hn : n + 1 = p.frameLength) :
    p.BeginsNext (ppuStep g).ppu := by
  have htick := h.tick_eq (by omega)
  rw [if_pos hn] at htick
  obtain ⟨hcycle, hline, hframe, hf, hmask, hsent⟩ := ppuStep_counters g
  have hlen := p.frameLength_cases
  rw [htick] at hcycle hline hframe hf hsent
  refine ⟨hcycle, hline, hframe.trans (congrArg (· + 1) h.frame), hf.trans (congrArg (!·) h.f),
    hmask.trans h.mask, ?_⟩
  rw [hsent, h.sent, if_pos (by omega)]
  rfl

/-- Every dot of a frame but the last keeps inside it. -/
theorem dotsInto_ppuSteps {g : Video} (hcycle : g.ppu.cycle = 0) (hline : g.ppu.scanline = 0) {n : Nat}
    (hn : n < g.ppu.frameLength) : g.ppu.DotsInto (ppuSteps n g).ppu n := by
  induction n with
  | zero => exact Ppu.dotsInto_self hcycle hline
  | succ n ih =>
    rw [ppuSteps_succ_last]
    exact (ih (Nat.lt_of_succ_lt hn)).next hn

/-- A whole frame is passed in as many dots as it is long. -/
theorem beginsNext_ppuSteps {g : Video} (hcycle : g.ppu.cycle = 0) (hline : g.ppu.scanline = 0) :
    g.ppu.BeginsNext (ppuSteps g.ppu.frameLength g).ppu := by
  have hlen := g.ppu.frameLength_cases
  obtain ⟨n, hn⟩ : ∃ n, n + 1 = g.ppu.frameLength := ⟨g.ppu.frameLength - 1, by omega⟩
  rw [← hn, ppuSteps_succ_last]
  exact (dotsInto_ppuSteps hcycle hline (by omega)).last hn

/-- One dot more than a frame stands in the next frame. -/
theorem beginsNext_next {p : Ppu} {g : Video} (h : p.BeginsNext g.ppu) :
    (ppuStep g).ppu.frame = p.frame + 1 ∧ (ppuStep g).ppu.framesSent = p.framesSent + 1 := by
  have hlen := g.ppu.frameLength_cases
  have hnext := (Ppu.dotsInto_self h.cycle h.scanline).next (g := g) (by omega)
  exact ⟨hnext.frame.trans h.frame, hnext.sent.trans h.sent⟩

/-- Settles O48: a full pass by `dotsInto_ppuSteps` and `beginsNext_ppuSteps`; the window begins with the wrap of the
even frame and holds all of the odd one. -/
theorem fullPassCountsOneFrame : Obligations.FullPassCountsOneFrame := by
  constructor
  case left =>
    intro g hcycle hline last
    have hlast : last = g.ppu.frameLength := rfl
    have hlen := g.ppu.frameLength_cases
    have hin {n : Nat} (hn : n < last) := dotsInto_ppuSteps hcycle hline (hlast ▸ hn)
    have hnext := beginsNext_ppuSteps hcycle hline
    rw [← hlast] at hnext hlen
    have hafter {n : Nat} (hn : last ≤ n) (hn' : n ≤ 89342) :
        (ppuSteps n g).ppu.frame = g.ppu.frame + 1 ∧ (ppuSteps n g).ppu.framesSent = g.ppu.framesSent + 1 := by
      obtain rfl | rfl : n = last ∨ n = last + 1 := by omega
      · exact ⟨hnext.frame, hnext.sent⟩
      · rw [ppuSteps_succ_last]
        exact beginsNext_next hnext
    refine ⟨fun n hn => ?_, fun n hn hn' => ?_, fun n hn => (hin hn).frame, fun n hn hn' => (hafter hn hn').1,
      hnext.cycle, hnext.scanline, hnext.f⟩
    · rw [(hin (by omega)).sent, if_neg (by omega)]
      rfl
    · obtain hn1 | hn1 := Nat.lt_or_ge n last
      · rw [(hin hn1).sent, if_pos hn]
      · exact (hafter hn1 hn').2
  case right =>
    intro g hcycle hline hr hf
    obtain ⟨hcycle', hline', hframe', hf', hmask', -⟩ := ppuStep_counters g
    rw [tick_of_last_dot hcycle hline] at hcycle' hline' hframe' hf'
    have hodd : ((ppuStep g).ppu.rendering && (ppuStep g).ppu.f) = true := by
      rw [Ppu.rendering_congr hmask', hr, hf', nextFrame, hf]
      rfl
    have hlen : (ppuStep g).ppu.frameLength = 89341 := if_pos hodd
    have hnext := (beginsNext_ppuSteps hcycle' hline').frame
    rw [hlen, hframe', nextFrame] at hnext
    rw [show 89342 = 89341 + 1 from rfl, ppuSteps_succ_first, hnext]

end Frame

/-! The scroll updates (R265 to R268) in the terms of `putField`: each writes a few fields of `v` and flips a nametable
bit at most. -/

section ScrollUpdates

/-- `v` with bit `i` inverted if `b`: the switch to the neighbouring nametable. -/
def flipBit (i : Nat) (b : Bool) (v : BitVec 15) : BitVec 15 := v ^^^ if b then BitVec.twoPow 15 i else 0

theorem getLsbD_flipBit_same {i : Nat} (hi : i < 15) (b : Bool) (v : BitVec 15) :
    (flipBit i b v).getLsbD i = (v.getLsbD i ^^ b) := by
  cases b <;> simp [flipBit, hi]

theorem getLsbD_flipBit_other {i k : Nat} (h : k ≠ i) (b : Bool) (v : BitVec 15) :
    (flipBit i b v).getLsbD k = v.getLsbD k := by
  cases b <;> simp [flipBit, BitVec.getLsbD_twoPow, h.symm]

theorem field_flipBit_other {i lo n : Nat} (h : i < lo ∨ lo + n ≤ i) (b : Bool) (v : BitVec 15) :
    field (flipBit i b v) lo n = field v lo n := by
  refine BitVec.eq_of_getLsbD_eq fun k hk => ?_
  rw [field, field, BitVec.getLsbD_extractLsb', BitVec.getLsbD_extractLsb', getLsbD_flipBit_other (by omega)]

theorem toNat_field (v : BitVec 15) (lo n : Nat) : (field v lo n).toNat = v.toNat / 2 ^ lo % 2 ^ n := by
  rw [field, BitVec.extractLsb'_toNat, Nat.shiftRight_eq_div_pow]

/-- A register is its low `n` bits and the `m` bits above them. -/
theorem eq_of_fields {v w : BitVec 15} {n m : Nat} (hnm : n + m = 15) (hlow : field v 0 n = field w 0 n)
    (hhigh : field v n m = field w n m) : v = w := by
  refine BitVec.eq_of_getLsbD_eq fun k hk => ?_
  obtain hn | hn := Nat.lt_or_ge k n
  · simpa [field, hn] using congrArg (·.getLsbD k) hlow
  · have hk' : k - n < m := by omega
    simpa [field, hk', hn] using congrArg (·.getLsbD (k - n)) hhigh

/-- Five bits under a mask, as the increments read coarse X and coarse Y. -/
theorem ushiftRight_and_eq_field (v : BitVec 15) (lo : Nat) : (v >>> lo) &&& 0x001F = (field v lo 5).setWidth 15 := by
  refine BitVec.eq_of_toNat_eq ?_
  have hmask : (0x001F : BitVec 15).toNat = 2 ^ 5 - 1 := rfl
  rw [BitVec.toNat_and, hmask, Nat.and_two_pow_sub_one_eq_mod, BitVec.toNat_ushiftRight, BitVec.toNat_setWidth,
    toNat_field, Nat.shiftRight_eq_div_pow]
  omega

/-- A test of such a field against a constant is one of the masked word. -/
theorem setWidth_eq_iff (c d : BitVec 5) : c.setWidth 15 = d.setWidth 15 ↔ c = d := by
  refine ⟨fun h => ?_, congrArg _⟩
  have hlow := congrArg (BitVec.setWidth 5) h
  rwa [BitVec.setWidth_setWidth_of_le _ (by decide), BitVec.setWidth_setWidth_of_le _ (by decide), BitVec.setWidth_eq,
    BitVec.setWidth_eq] at hlow

/-- Counting coarse X below its wrap touches no other field. -/
theorem add_one_eq_putField {v : BitVec 15} (h : field v 0 5 ≠ 31) : v + 1 = putField 0 (field v 0 5 + 1) v := by
  have h31 : v.toNat % 32 ≠ 31 := fun e => h (BitVec.eq_of_toNat_eq (by rw [toNat_field]; simpa using e))
  refine eq_of_fields (show 5 + 10 = 15 from rfl) ?_ ?_
  · rw [field_putField_same _ _ (by decide)]
    refine BitVec.eq_of_toNat_eq ?_
    simp only [toNat_field, BitVec.toNat_add, BitVec.ofNat_eq_ofNat, BitVec.toNat_ofNat]
    omega
  · rw [field_putField_other _ _ (by decide)]
    refine BitVec.eq_of_toNat_eq ?_
    simp only [toNat_field, BitVec.toNat_add, BitVec.ofNat_eq_ofNat, BitVec.toNat_ofNat]
    omega

/-- Counting fine Y wraps at the top of `v` and touches no other field. -/
theorem add_0x1000_eq_putField (v : BitVec 15) : v + 0x1000 = putField 12 (field v 12 3 + 1) v := by
  refine eq_of_fields (show 12 + 3 = 15 from rfl) ?_ ?_
  · rw [field_putField_other _ _ (by decide)]
    refine BitVec.eq_of_toNat_eq ?_
    simp only [toNat_field, BitVec.toNat_add, BitVec.ofNat_eq_ofNat, BitVec.toNat_ofNat]
    omega
  · rw [field_putField_same _ _ (by decide)]
    refine BitVec.eq_of_toNat_eq ?_
    simp only [toNat_field, BitVec.toNat_add, BitVec.ofNat_eq_ofNat, BitVec.toNat_ofNat]
    omega

/-- `IncrementX` counts coarse X and, at its wrap, switches the horizontal nametable (R265). -/
theorem incrementX_eq (v : BitVec 15) :
    incrementX v = putField 0 (field v 0 5 + 1) (flipBit 10 (field v 0 5 == 31) v) := by
  have htest : v &&& 0x001F = 31 ↔ field v 0 5 = 31 := by
    have hrow := ushiftRight_and_eq_field v 0
    rw [BitVec.ushiftRight_zero] at hrow
    rw [hrow]
    exact setWidth_eq_iff _ 31
  rw [incrementX]
  split
  · next h =>
    rw [htest.1 h]
    ext k hk
    interval_cases k <;> simp [putField, flipBit]
  · next h =>
    have hne := mt htest.2 h
    rw [add_one_eq_putField hne, beq_eq_false_iff_ne.2 hne]
    simp [flipBit]

/-- Coarse Y written by mask and OR in a register whose fine Y has been cleared. -/
theorem clearFineY_eq_putField (v : BitVec 15) (c : BitVec 5) :
    (v &&& (0x0FFF : BitVec 15)) &&& 0x7C1F ||| (c.setWidth 15 <<< 5) =
      putField 12 (0 : BitVec 3) (putField 5 c v) := by
  ext k hk
  interval_cases k <;> simp [putField]

/-- Below its wrap a five-bit field counts like the word it stands in. -/
theorem setWidth_succ {c : BitVec 5} (h : c ≠ 31) : (c + 1).setWidth 15 = c.setWidth 15 + 1 := by
  have h31 : c.toNat ≠ 31 := fun e => h (BitVec.eq_of_toNat_eq e)
  refine BitVec.eq_of_toNat_eq ?_
  simp only [BitVec.toNat_setWidth, BitVec.toNat_add, BitVec.ofNat_eq_ofNat, BitVec.toNat_ofNat]
  omega

/-- `IncrementY` counts fine Y; at its wrap it counts coarse Y, which wraps from 29 with a switch of the vertical
nametable and from 31 without one (R266). -/
theorem incrementY_eq (v : BitVec 15) :
    incrementY v = putField 12 (field v 12 3 + 1)
      (if field v 12 3 ≠ 7 then v
       else putField 5 (if field v 5 5 = 29 ∨ field v 5 5 = 31 then 0 else field v 5 5 + 1)
         (flipBit 11 (field v 5 5 == 29) v)) := by
  have hfine : fineY v = field v 12 3 := rfl
  simp only [incrementY, hfine, ushiftRight_and_eq_field]
  split
  · exact add_0x1000_eq_putField v
  · next h7 =>
    have h0 : field v 12 3 + 1 = 0 := by rw [not_not.1 h7]; rfl
    have h29 : (field v 5 5).setWidth 15 = 29 ↔ field v 5 5 = 29 := setWidth_eq_iff _ 29
    have h31 : (field v 5 5).setWidth 15 = 31 ↔ field v 5 5 = 31 := setWidth_eq_iff _ 31
    simp only [h0, h29, h31]
    split
    · next h =>
      rw [h, if_pos (Or.inl rfl)]
      ext k hk
      interval_cases k <;> simp [putField, flipBit]
    · next hn29 =>
      have hkeep : flipBit 11 (field v 5 5 == 29) v = v := by rw [beq_eq_false_iff_ne.2 hn29]; simp [flipBit]
      rw [hkeep]
      split
      · next h => rw [if_pos (Or.inr h), ← clearFineY_eq_putField]; simp
      · next hn31 =>
        rw [if_neg (not_or_intro hn29 hn31), ← setWidth_succ hn31, clearFineY_eq_putField]

/-- `CopyX` copies coarse X and the horizontal nametable bit (R267). -/
theorem copyX_eq (v t : BitVec 15) : copyX v t = putField 0 (field t 0 5) (putField 10 (field t 10 1) v) := by
  ext k hk
  interval_cases k <;> simp [copyX, putField, field]

/-- `CopyY` copies coarse Y, fine Y and the vertical nametable bit (R268). -/
theorem copyY_eq (v t : BitVec 15) : copyY v t = putField 5 (field t 5 5) (putField 11 (field t 11 4) v) := by
  ext k hk
  interval_cases k <;> simp [copyY, putField, field]

/-- Settles O50: each update as fields written, read back by `field_putField_same` and `field_putField_other`. -/
theorem scrollIncrementsByField : Obligations.ScrollIncrementsByField := by
  intro v t
  rw [incrementX_eq, incrementY_eq, copyX_eq, copyY_eq]
  refine ⟨?incrementX, ?incrementY, ?copyX, ?copyY⟩
  case incrementX =>
    refine ⟨field_putField_same _ _ (by decide), ?_, ?_, ?_⟩
    · rw [getLsbD_putField_outside _ _ (by decide), getLsbD_flipBit_same (by decide)]
    · rw [field_putField_other _ _ (by decide), field_flipBit_other (by decide)]
    · rw [field_putField_other _ _ (by decide), field_flipBit_other (by decide)]
  case incrementY =>
    refine ⟨field_putField_same _ _ (by decide), ?_, ?_, ?_, ?_⟩
    · rw [field_putField_other _ _ (by decide)]
      split
      · rfl
      · exact field_putField_same _ _ (by decide)
    · rw [getLsbD_putField_outside _ _ (by decide)]
      by_cases h : field v 12 3 = 7
      · rw [if_neg (not_not.2 h), getLsbD_putField_outside _ _ (by decide), getLsbD_flipBit_same (by decide), h]
        rfl
      · rw [if_pos h, beq_eq_false_iff_ne.2 h, Bool.false_and, Bool.xor_false]
    · rw [field_putField_other _ _ (by decide)]
      split
      · rfl
      · rw [field_putField_other _ _ (by decide), field_flipBit_other (by decide)]
    · rw [getLsbD_putField_outside _ _ (by decide)]
      split
      · rfl
      · rw [getLsbD_putField_outside _ _ (by decide), getLsbD_flipBit_other (by decide)]
  case copyX =>
    refine ⟨field_putField_same _ _ (by decide), ?_, ?_, ?_⟩
    · rw [getLsbD_putField_outside _ _ (by decide)]
      exact (getLsbD_putField_inside (lo := 10) (k := 0) _ _ (by decide) (by decide)).trans (by simp [field])
    · rw [field_putField_other _ _ (by decide), field_putField_other _ _ (by decide)]
    · rw [field_putField_other _ _ (by decide), field_putField_other _ _ (by decide)]
  case copyY =>
    refine ⟨field_putField_same _ _ (by decide), ?_, ?_, ?_⟩
    · rw [field_putField_other _ _ (by decide), field_putField_same _ _ (by decide)]
    · rw [field_putField_other _ _ (by decide), field_putField_other _ _ (by decide)]
    · rw [getLsbD_putField_outside _ _ (by decide), getLsbD_putField_outside _ _ (by decide)]

end ScrollUpdates

/-! The background fetches (R260 to R263): the addresses as the fields of `v` side by side, and as numbers. -/

section BackgroundFetch

/-- Two words side by side, as a number. -/
theorem toNat_append_eq_add {m n : Nat} (h : BitVec m) (l : BitVec n) :
    (h ++ l).toNat = h.toNat * 2 ^ n + l.toNat := by
  rw [BitVec.toNat_append, ← Nat.shiftLeft_add_eq_or_of_lt l.isLt, Nat.shiftLeft_eq]

/-- A field without its low `k` bits. -/
theorem toNat_field_div (v : BitVec 15) (lo k n : Nat) :
    (field v lo (k + n)).toNat / 2 ^ k = (field v (lo + k) n).toNat := by
  rw [toNat_field, toNat_field, pow_add, Nat.mod_mul_right_div_self, Nat.div_div_eq_div_mul, ← pow_add]

theorem nametableAddress_eq_append (v : BitVec 15) : nametableAddress v = 2#4 ++ field v 0 12 := by
  refine BitVec.eq_of_getLsbD_eq fun k hk => ?_
  rw [BitVec.getLsbD_append]
  interval_cases k <;> simp [nametableAddress, field]

/-- The palette numbers stand in the last 64 bytes of a nametable, one byte for four tiles each way (R261). -/
theorem attributeAddress_eq_append (v : BitVec 15) :
    attributeAddress v = 2#4 ++ field v 10 2 ++ 15#4 ++ field v 7 3 ++ field v 2 3 := by
  refine BitVec.eq_of_getLsbD_eq fun k hk => ?_
  rw [BitVec.getLsbD_append, BitVec.getLsbD_append, BitVec.getLsbD_append, BitVec.getLsbD_append]
  interval_cases k <;> simp [attributeAddress, field]

theorem nametableAddress_eq_ofNat (v : BitVec 15) :
    nametableAddress v =
      BitVec.ofNat 16
        (0x2000 + (field v 10 2).toNat * 0x0400 + (field v 5 5).toNat * 32 + (field v 0 5).toNat) := by
  refine BitVec.eq_of_toNat_eq ?_
  rw [nametableAddress_eq_append, toNat_append_eq_add, BitVec.toNat_ofNat]
  simp only [toNat_field, BitVec.toNat_ofNat]
  omega

theorem attributeAddress_eq_ofNat (v : BitVec 15) :
    attributeAddress v =
      BitVec.ofNat 16
        (0x2000 + (field v 10 2).toNat * 0x0400 + 0x03C0 + (field v 5 5).toNat / 4 * 8 + (field v 0 5).toNat / 4) := by
  have hrow : (field v 5 5).toNat / 4 = (field v 7 3).toNat := toNat_field_div v 5 2 3
  have hcolumn : (field v 0 5).toNat / 4 = (field v 2 3).toNat := toNat_field_div v 0 2 3
  refine BitVec.eq_of_toNat_eq ?_
  rw [hrow, hcolumn, attributeAddress_eq_append, toNat_append_eq_add, toNat_append_eq_add, toNat_append_eq_add,
    toNat_append_eq_add, BitVec.toNat_ofNat]
  simp only [toNat_field, BitVec.toNat_ofNat]
  omega

/-- The quadrant of a block: bit 1 of coarse Y and of coarse X (R261). -/
theorem attributeShift_eq (v : BitVec 15) :
    attributeShift v = (field v 5 5).toNat / 2 % 2 * 4 + (field v 0 5).toNat / 2 % 2 * 2 := by
  have happend : ((v >>> 4) &&& 4) ||| (v &&& 2) = 0#12 ++ field v 6 1 ++ field v 1 1 ++ 0#1 := by
    refine BitVec.eq_of_getLsbD_eq fun k hk => ?_
    rw [BitVec.getLsbD_append, BitVec.getLsbD_append, BitVec.getLsbD_append]
    interval_cases k <;> simp [field]
  have hrow : (field v 5 5).toNat / 2 = (field v 6 4).toNat := toNat_field_div v 5 1 4
  have hcolumn : (field v 0 5).toNat / 2 = (field v 1 4).toNat := toNat_field_div v 0 1 4
  rw [attributeShift, hrow, hcolumn, happend, toNat_append_eq_add, toNat_append_eq_add, toNat_append_eq_add]
  simp only [toNat_field, BitVec.toNat_ofNat]
  omega

/-- The palette number of a quadrant, times 4 (R261). -/
theorem paletteNumber_eq_ofNat (b : Byte) (n : Nat) :
    ((b >>> n) &&& 3) <<< 2 = BitVec.ofNat 8 (b.toNat / 2 ^ n % 4 * 4) := by
  have hmask : (3 : Byte).toNat = 2 ^ 2 - 1 := rfl
  refine BitVec.eq_of_toNat_eq ?_
  rw [BitVec.toNat_shiftLeft, BitVec.toNat_and, hmask, Nat.and_two_pow_sub_one_eq_mod, BitVec.toNat_ushiftRight,
    Nat.shiftRight_eq_div_pow, Nat.shiftLeft_eq, BitVec.toNat_ofNat]

/-- A tile number as the offset of its pattern. -/
theorem zext16_shiftLeft_eq_ofNat (b : Byte) : zext16 b <<< 4 = BitVec.ofNat 16 (b.toNat * 16) := by
  refine BitVec.eq_of_toNat_eq ?_
  simp [zext16, Nat.shiftLeft_eq]

theorem tileAddress_eq_ofNat (p : Ppu) :
    tileAddress p =
      BitVec.ofNat 16
        ((if p.control.backgroundTable then 0x1000 else 0) + p.nametableByte.toNat * 16 + (field p.v 12 3).toNat) := by
  have hfine : (fineY p.v).setWidth 16 = BitVec.ofNat 16 (field p.v 12 3).toNat := (BitVec.ofNat_toNat 16 _).symm
  rw [tileAddress, hfine, zext16_shiftLeft_eq_ofNat, BitVec.ofNat_add, BitVec.ofNat_add]
  split <;> rfl

/-- Settles O51: the four units with their addresses as numbers. -/
theorem backgroundFetchAddresses : Obligations.BackgroundFetchAddresses := by
  intro g p coarseX coarseY table plane name attr shift low high
  have hplane : tileAddress p + 8 = BitVec.ofNat 16 (plane + 8) := by
    rw [tileAddress_eq_ofNat]
    exact (BitVec.ofNat_add plane 8).symm
  refine ⟨?_, ?_, ?_, ?_⟩
  · rw [fetchNametableByte, nametableAddress_eq_ofNat]
  · rw [fetchAttributeByte, attributeAddress_eq_ofNat, attributeShift_eq]
    simp only [paletteNumber_eq_ofNat]
    rfl
  · rw [fetchLowTileByte, tileAddress_eq_ofNat]
  · rw [fetchHighTileByte, hplane]

end BackgroundFetch

/-! Rows of eight pixels (R264, R272): what stands in each nibble of a packed row, and the pixel of two bit planes. -/

section PixelRows

/-- Packing `n` pixels shifts each to its nibble, the first one highest. -/
theorem getLsbD_foldl_pixels (pixel : Nat → BitVec 4) {n : Nat} (hn : n ≤ 8) {k j : Nat} (hk : k < n) (hj : j < 4) :
    ((List.range n).foldl (fun (d : BitVec 32) k => (d <<< 4) ||| (pixel k).setWidth 32) 0).getLsbD
        (4 * (n - 1 - k) + j) =
      (pixel k).getLsbD j := by
  induction n with
  | zero => exact absurd hk (Nat.not_lt_zero k)
  | succ n ih =>
    rw [List.range_succ, List.foldl_append, List.foldl_cons, List.foldl_nil, BitVec.getLsbD_or,
      BitVec.getLsbD_setWidth, BitVec.getLsbD_shiftLeft]
    obtain rfl | hlt : k = n ∨ k < n := by omega
    · have hj32 : j < 32 := by omega
      simp [hj, hj32]
    · have hshift : 4 * (n + 1 - 1 - k) + j - 4 = 4 * (n - 1 - k) + j := by omega
      have hhigh : (pixel n).getLsbD (4 * (n + 1 - 1 - k) + j) = false := BitVec.getLsbD_of_ge _ _ (by omega)
      have h4 : ¬4 * (n + 1 - 1 - k) + j < 4 := by omega
      have h32 : 4 * (n + 1 - 1 - k) + j < 32 := by omega
      rw [hshift, ih (by omega) hlt, hhigh, decide_eq_true h32, decide_eq_false h4, Bool.and_false, Bool.or_false,
        Bool.not_false, Bool.true_and, Bool.true_and]

/-- Pixel `k` of a packed row is nibble `7 - k`. -/
theorem extractLsb'_packPixels (pixel : Nat → BitVec 4) {k : Nat} (hk : k < 8) :
    (packPixels pixel).extractLsb' (4 * (7 - k)) 4 = pixel k := by
  refine BitVec.eq_of_getLsbD_eq fun j hj => ?_
  rw [BitVec.getLsbD_extractLsb', decide_eq_true hj, Bool.true_and]
  exact getLsbD_foldl_pixels pixel le_rfl hk hj

/-- A palette number times 4 leaves bits 1:0 to the two planes (R264, R272). -/
theorem planePixel_eq_ofNat {pal : Byte} (h : pal &&& 0xF3 = 0) (low high : Byte) (j : Nat) :
    planePixel pal low high j =
      BitVec.ofNat 4 (pal.toNat + (if low.getLsbD j then 1 else 0) + (if high.getLsbD j then 2 else 0)) := by
  have hbits : ∀ b c : Bool, ∀ q : Byte, q &&& 0xF3 = 0 →
      (q ||| (if b then 1 else 0) ||| (if c then 2 else 0)).setWidth 4 =
        BitVec.ofNat 4 (q.toNat + (if b then 1 else 0) + (if c then 2 else 0)) := by decide
  exact hbits _ _ pal h

/-- A nibble of a buffer after a row has been ORed into its low half. -/
theorem extractLsb'_or_setWidth (d : BitVec 64) (r : BitVec 32) {lo : Nat} (hlo : lo + 4 ≤ 32) :
    (d ||| r.setWidth 64).extractLsb' lo 4 = d.extractLsb' lo 4 ||| r.extractLsb' lo 4 := by
  refine BitVec.eq_of_getLsbD_eq fun j hj => ?_
  have h64 : lo + j < 64 := by omega
  simp [hj, h64]

/-- Settles O52: ORing a row of 32 bits leaves the high half, and gives each low nibble its pixel. -/
theorem tileRowEntersTheBuffer : Obligations.TileRowEntersTheBuffer := by
  intro p hattr
  refine ⟨_, rfl, fun k hk => ?_, fun i hi => ?_⟩
  · rw [BitVec.getLsbD_or, BitVec.getLsbD_setWidth, BitVec.getLsbD_of_ge (packPixels _) k hk, Bool.and_false,
      Bool.or_false]
  · rw [extractLsb'_or_setWidth _ _ (by omega), extractLsb'_packPixels _ hi, planePixel_eq_ofNat hattr]

end PixelRows

/-! The pattern of a sprite row (R272). -/

section SpritePattern

theorem toNat_and_0xFE (b : Byte) : (b &&& 0xFE).toNat = b.toNat / 2 * 2 := by
  revert b
  decide

theorem toNat_and_0xFE_succ (b : Byte) : ((b &&& 0xFE) + 1).toNat = b.toNat / 2 * 2 + 1 := by
  revert b
  decide

/-- A row inside the sprite, counted from the bottom if the sprite is flipped (R272). -/
def spriteLine (p : Ppu) (i row : Nat) : Nat :=
  if (p.oam.read (4 * i + 2)).getLsbD 7 then (if p.control.spriteSize then 15 else 7) - row else row

/-- A sprite of 8 lines takes its pattern from the table that the control port names. -/
theorem spriteAddress_of_small {p : Ppu} (hsize : p.control.spriteSize = false) (i row : Nat) :
    spriteAddress p i row =
      BitVec.ofNat 16
        ((if p.control.spriteTable then 0x1000 else 0) + (p.oam.read (4 * i + 1)).toNat * 16 +
          spriteLine p i row) := by
  simp only [spriteAddress, spriteLine, hsize, oamByte, zext16_shiftLeft_eq_ofNat, BitVec.ofNat_add,
    Bool.false_eq_true, if_false]
  split <;> rfl

/-- A sprite of 16 lines is two tiles of the table that bit 0 of its tile number names. -/
theorem spriteAddress_of_large {p : Ppu} (hsize : p.control.spriteSize = true) {i row : Nat} (hrow : row < 16) :
    spriteAddress p i row =
      BitVec.ofNat 16
        (0x1000 * ((p.oam.read (4 * i + 1)).toNat % 2) +
          ((p.oam.read (4 * i + 1)).toNat / 2 * 2 + spriteLine p i row / 8) * 16 + spriteLine p i row % 8) := by
  have hline : spriteLine p i row < 16 := by
    simp only [spriteLine, hsize, if_true]
    split <;> omega
  have hbit (b : Byte) : (if b.getLsbD 0 then (0x1000 : Addr) else 0) = BitVec.ofNat 16 (0x1000 * (b.toNat % 2)) := by
    revert b
    decide
  have hunfold : spriteAddress p i row =
      let tile := p.oam.read (4 * i + 1)
      let table := if tile.getLsbD 0 then (0x1000 : Addr) else 0
      if 7 < spriteLine p i row then
        table + (zext16 ((tile &&& 0xFE) + 1) <<< 4) + BitVec.ofNat 16 (spriteLine p i row - 8)
      else table + (zext16 (tile &&& 0xFE) <<< 4) + BitVec.ofNat 16 (spriteLine p i row) := by
    simp only [spriteAddress, spriteLine, hsize, oamByte, if_true]
    rfl
  rw [hunfold]
  dsimp only
  split
  · rw [hbit, zext16_shiftLeft_eq_ofNat, toNat_and_0xFE_succ, ← BitVec.ofNat_add, ← BitVec.ofNat_add]
    congr 1
    omega
  · rw [hbit, zext16_shiftLeft_eq_ofNat, toNat_and_0xFE, ← BitVec.ofNat_add, ← BitVec.ofNat_add]
    congr 1
    omega

theorem paletteNumber_toNat (b : Byte) : ((b &&& 3) <<< 2).toNat = b.toNat % 4 * 4 := by
  revert b
  decide

/-- Settles O54: the address for either size, and each pixel of the packed row. -/
theorem spritePatternFetch : Obligations.SpritePatternFetch := by
  intro p e i row hrow tile attr line address low high
  have haddress : spriteAddress p i row = BitVec.ofNat 16 address := by
    obtain hsize | hsize := Bool.eq_false_or_eq_true p.control.spriteSize
    · rw [if_pos hsize] at hrow
      exact (spriteAddress_of_large hsize hrow).trans (congrArg _ (if_pos hsize).symm)
    · exact (spriteAddress_of_small hsize i row).trans (congrArg _ (if_neg (ne_true_of_eq_false hsize)).symm)
  have hhigh : spriteAddress p i row + 8 = BitVec.ofNat 16 (address + 8) := by
    rw [haddress]
    exact (BitVec.ofNat_add address 8).symm
  have hfetch : fetchSpritePattern i row p e = (spritePixels attr low.1 high.1, high.2) := by
    rw [fetchSpritePattern, hhigh, haddress]
    rfl
  rw [hfetch]
  refine ⟨rfl, fun k hk => ?_⟩
  rw [spritePixels, extractLsb'_packPixels _ hk, planePixel_eq_ofNat (paletteNumber_mask attr), paletteNumber_toNat]

end SpritePattern

/-! The two layers of a pixel and their multiplexer (R278 to R282). -/

section Multiplexer

/-- A nibble tapped from a buffer. -/
theorem toNat_tap {w : Nat} (d : BitVec w) (n : Nat) : ((d >>> n).setWidth 4).toNat = d.toNat / 2 ^ n % 16 := by
  rw [BitVec.toNat_setWidth, BitVec.toNat_ushiftRight, Nat.shiftRight_eq_div_pow]

theorem opaquePixel_iff (c : BitVec 4) : opaquePixel c = true ↔ c.toNat % 4 ≠ 0 := decide_eq_true_iff

theorem opaquePixel_eq_false_iff (c : BitVec 4) : opaquePixel c = false ↔ c.toNat % 4 = 0 := by
  rw [opaquePixel, decide_eq_false_iff_not, not_not]

/-- The pixel of a slot as a number, in the terms of R279. -/
theorem slotPixel_toNat (p : Ppu) (i : Nat) :
    (slotPixel p i).toNat =
      if (spriteSlot p i).position.toNat ≤ p.cycle - 1 ∧ p.cycle - 1 ≤ (spriteSlot p i).position.toNat + 7 then
        (spriteSlot p i).pattern.toNat / 2 ^ ((7 - (p.cycle - 1 - (spriteSlot p i).position.toNat)) * 4) % 16
      else 0 := by
  rw [slotPixel]
  split
  · next h => rw [toNat_tap, if_pos (by omega)]
  · next h => rw [if_neg (by omega)]; rfl

/-- The first slot with an opaque pixel wins (R279). -/
theorem spritePixel_of_first {p : Ppu} (hshow : p.mask.showSprites = true) {i : Nat} (hi : i < p.spriteCount)
    (hopaque : opaquePixel (slotPixel p i) = true) (hfirst : ∀ j < i, opaquePixel (slotPixel p j) = false) :
    spritePixel p = (i, slotPixel p i) := by
  have hfind : (List.range p.spriteCount).find? (fun i => opaquePixel (slotPixel p i)) = some i :=
    List.find?_range_eq_some.2 ⟨hopaque, List.mem_range.2 hi, fun j hj => by rw [hfirst j hj]; rfl⟩
  rw [spritePixel, if_pos hshow, hfind]

theorem spritePixel_of_none {p : Ppu} (hnone : ∀ i < p.spriteCount, opaquePixel (slotPixel p i) = false) :
    spritePixel p = (0, 0) := by
  have hfind : (List.range p.spriteCount).find? (fun i => opaquePixel (slotPixel p i)) = none :=
    List.find?_range_eq_none.2 fun i hi => by rw [hnone i hi]; rfl
  rw [spritePixel, hfind, ite_self]

/-- Settles O55: the tap as a number, and the search of the slots by its first success. -/
theorem layersOfAPixel : Obligations.LayersOfAPixel := by
  intro p
  refine ⟨?background, fun hshow => ?hidden, fun hshow _ _ => ?sprites⟩
  case background =>
    rw [backgroundPixel]
    split
    · exact toNat_tap _ _
    · rfl
  case hidden => rw [spritePixel, hshow]; rfl
  case sprites =>
    intro color
    have hcolor (i : Nat) : (slotPixel p i).toNat = color i := slotPixel_toNat p i
    have hclear {i : Nat} (h : color i % 4 = 0) : opaquePixel (slotPixel p i) = false :=
      (opaquePixel_eq_false_iff _).2 (by rwa [hcolor])
    refine ⟨fun i hi hopaque hfirst => ?_, fun hnone => spritePixel_of_none fun i hi => hclear (hnone i hi)⟩
    rw [spritePixel_of_first hshow hi ((opaquePixel_iff _).2 (by rwa [hcolor])) fun j hj => hclear (hfirst j hj)]
    exact ⟨rfl, hcolor i⟩

/-- The multiplexer in the terms of R280. -/
theorem muxColor_eq (bg sp : BitVec 4) (behind : Bool) :
    muxColor bg sp behind =
      if bg.toNat % 4 = 0 ∧ sp.toNat % 4 = 0 then 0
      else if bg.toNat % 4 = 0 then sp.toNat + 16
      else if sp.toNat % 4 = 0 then bg.toNat
      else if behind then bg.toNat else sp.toNat + 16 := by
  simp only [← opaquePixel_eq_false_iff, muxColor]
  cases opaquePixel bg <;> cases opaquePixel sp <;> rfl

/-- The sprite-zero hit in the terms of R281. -/
theorem spriteZeroHit_eq_decide (bg sp : BitVec 4) (index : Byte) (px : Nat) :
    (opaquePixel bg && opaquePixel sp && index == 0 && decide (px < 255)) =
      decide (bg.toNat % 4 ≠ 0 ∧ sp.toNat % 4 ≠ 0 ∧ index = 0 ∧ px < 255) := by
  rw [Bool.eq_iff_iff]
  simp only [Bool.and_eq_true, opaquePixel_iff, beq_iff_eq, decide_eq_true_iff, and_assoc]

/-- A layer's pixel with its left column hidden unless it is shown (R280). -/
def hideLeft (p : Ppu) (shown : Bool) (c : BitVec 4) : BitVec 4 := if p.cycle - 1 < 8 ∧ shown = false then 0 else c

theorem toNat_hideLeft (p : Ppu) (shown : Bool) (c : BitVec 4) :
    (hideLeft p shown c).toNat = if p.cycle - 1 < 8 ∧ shown = false then 0 else c.toNat :=
  apply_ite BitVec.toNat _ _ _

theorem renderPixel_eq_hideLeft (p : Ppu) :
    renderPixel p =
      let bg := hideLeft p p.mask.showLeftBackground (backgroundPixel p)
      let sp := hideLeft p p.mask.showLeftSprites (spritePixel p).2
      let slot := spriteSlot p (spritePixel p).1
      { p with
        spriteZeroHit :=
          p.spriteZeroHit || (opaquePixel bg && opaquePixel sp && slot.index == 0 && decide (p.cycle - 1 < 255))
        back :=
          Grid.write p.back p.scanline (p.cycle - 1) ((readPalette (muxColor bg sp slot.priority) p).setWidth 6) } :=
  rfl

/-- Settles O56: the hit and the colour on the two layers as numbers, and `Grid.read_write` for `back`. -/
theorem renderPixelMultiplexes : Obligations.RenderPixelMultiplexes := by
  intro p px found bg sp slot color
  refine ⟨Grid.write p.back p.scanline px ((readPalette color p).setWidth 6), ?_, fun y x => ?_⟩
  · simp only [renderPixel_eq_hideLeft, spriteZeroHit_eq_decide, muxColor_eq, toNat_hideLeft]
    rfl
  · simp only [Grid.read_write, eq_comm]

end Multiplexer

/-! Sprite evaluation (R271, R275): the scan as an invariant of the sprites found so far. -/

section SpriteEvaluation

/-- The environment after the patterns of the sprites of `l` have been fetched for the scanline, in order. -/
def envAfterFetches (p : Ppu) (e : Env) (l : List Nat) : Env :=
  l.foldl (fun e i => (fetchSpritePattern i (p.scanline - (p.oam.read (4 * i)).toNat) p e).2) e

/-- The slot that OAM sprite `i` fills when its pattern is fetched in the environment `e`. -/
def evaluatedSlot (p : Ppu) (e : Env) (i : Nat) : SpriteSlot :=
  { pattern := (fetchSpritePattern i (p.scanline - (p.oam.read (4 * i)).toNat) p e).1
    position := p.oam.read (4 * i + 3)
    priority := (p.oam.read (4 * i + 2)).getLsbD 5
    index := BitVec.ofNat 8 i }

/-- What the scan that began at `p` and `e` has done when the sprites of `found` were in range: they are counted, the
first eight have had their patterns fetched and stand in the slots, and nothing else has changed. -/
structure SlotsFilled (p : Ppu) (e : Env) (found : List Nat) (acc : Nat × Video) : Prop where
  count : acc.1 = found.length
  env : acc.2.env = envAfterFetches p e (found.take 8)
  ppu : acc.2.ppu = { p with sprites := acc.2.ppu.sprites }
  filled : ∀ k (h : k < 8) (hk : k < found.length),
    acc.2.ppu.sprites[k] = evaluatedSlot p (envAfterFetches p e (found.take k)) found[k]
  kept : ∀ k (h : k < 8), found.length ≤ k → acc.2.ppu.sprites[k] = p.sprites[k]

theorem envAfterFetches_concat (p : Ppu) (e : Env) (l : List Nat) (i : Nat) :
    envAfterFetches p e (l ++ [i]) =
      (fetchSpritePattern i (p.scanline - (p.oam.read (4 * i)).toNat) p (envAfterFetches p e l)).2 := by
  rw [envAfterFetches, List.foldl_append]
  rfl

theorem slotsFilled_nil (p : Ppu) (e : Env) : SlotsFilled p e [] (0, { ppu := p, env := e }) :=
  ⟨rfl, rfl, rfl, fun _ _ hk => absurd hk (Nat.not_lt_zero _), fun _ _ _ => rfl⟩

variable {p : Ppu} {e : Env} {found : List Nat} {acc : Nat × Video} {i : Nat}

/-- The scan itself does not decide which sprites are in range. -/
theorem SlotsFilled.spriteInRange (h : SlotsFilled p e found acc) (i : Nat) :
    spriteInRange acc.2.ppu i = spriteInRange p i := by
  rw [h.ppu]
  rfl

theorem SlotsFilled.evaluateSprite_out (h : SlotsFilled p e found acc) (hi : Machine.spriteInRange p i = false) :
    evaluateSprite acc i = acc :=
  if_neg (by rw [h.spriteInRange, hi]; exact Bool.false_ne_true)

/-- A sprite in range, while a slot is free. -/
theorem SlotsFilled.evaluateSprite_free (h : SlotsFilled p e found acc) (hi : Machine.spriteInRange p i = true)
    (hfree : found.length < 8) :
    evaluateSprite acc i =
      (found.length + 1,
        { ppu :=
            { p with
              sprites :=
                acc.2.ppu.sprites.setIfInBounds found.length (evaluatedSlot p (envAfterFetches p e found) i) }
          env := envAfterFetches p e (found ++ [i]) }) := by
  have henv := h.env
  rw [List.take_of_length_le hfree.le] at henv
  rw [evaluateSprite, h.spriteInRange, if_pos hi, h.count, if_pos hfree, henv, envAfterFetches_concat, h.ppu]
  rfl

/-- A sprite in range after the eighth is counted only. -/
theorem SlotsFilled.evaluateSprite_full (h : SlotsFilled p e found acc) (hi : Machine.spriteInRange p i = true)
    (hfull : 8 ≤ found.length) : evaluateSprite acc i = (found.length + 1, acc.2) := by
  rw [evaluateSprite, h.spriteInRange, if_pos hi, h.count, if_neg (by omega)]

/-- A sprite in range joins the sprites found. -/
theorem SlotsFilled.concat (h : SlotsFilled p e found acc) (hi : Machine.spriteInRange p i = true) :
    SlotsFilled p e (found ++ [i]) (evaluateSprite acc i) := by
  obtain hfree | hfull := Nat.lt_or_ge found.length 8
  · rw [h.evaluateSprite_free hi hfree]
    refine ⟨List.length_append (bs := [i]) |>.symm, ?_, rfl, fun k h8 hk => ?_, fun k h8 hk => ?_⟩
    · rw [List.take_of_length_le (by rw [List.length_append]; exact hfree)]
    · rw [List.length_append, List.length_singleton] at hk
      dsimp only
      obtain rfl | hlt : k = found.length ∨ k < found.length := by omega
      · rw [Vector.getElem_setIfInBounds_self, List.take_left, List.getElem_concat_length rfl]
      · rw [Vector.getElem_setIfInBounds_ne h8 hlt.ne', h.filled k h8 hlt, List.take_append_of_le_length hlt.le,
          List.getElem_append_left hlt]
    · rw [List.length_append] at hk
      exact (Vector.getElem_setIfInBounds_ne h8 (Nat.ne_of_lt hk)).trans (h.kept k h8 (Nat.le_of_succ_le hk))
  · rw [h.evaluateSprite_full hi hfull]
    refine ⟨List.length_append (bs := [i]) |>.symm, ?_, h.ppu, fun k h8 hk => ?_, fun k h8 hk => ?_⟩
    · rw [List.take_append_of_le_length hfull, h.env]
    · rw [h.filled k h8 (by omega), List.take_append_of_le_length (by omega), List.getElem_append_left]
    · rw [List.length_append, List.length_singleton] at hk
      omega

/-- The scan over any part of OAM. -/
theorem slotsFilled_foldl (p : Ppu) (e : Env) (l : List Nat) :
    SlotsFilled p e (l.filter (spriteInRange p)) (l.foldl evaluateSprite (0, { ppu := p, env := e })) := by
  induction l using List.reverseRecOn with
  | nil => exact slotsFilled_nil p e
  | append_singleton l i ih =>
    rw [List.foldl_append, List.foldl_cons, List.foldl_nil, List.filter_append]
    cases hi : spriteInRange p i with
    | false =>
      rw [List.filter_cons_of_neg (by rw [hi]; exact Bool.false_ne_true), List.filter_nil, List.append_nil]
      rwa [ih.evaluateSprite_out hi]
    | true =>
      rw [List.filter_cons_of_pos hi]
      exact ih.concat hi

/-- The range of a sprite's lines, without subtraction (R271). -/
theorem spriteInRange_eq_decide (p : Ppu) (i : Nat) :
    spriteInRange p i =
      decide ((p.oam.read (4 * i)).toNat ≤ p.scanline ∧
        p.scanline < (p.oam.read (4 * i)).toNat + (if p.control.spriteSize then 16 else 8)) := by
  rw [Bool.eq_iff_iff, spriteInRange, spriteHeight, oamByte, Bool.and_eq_true, decide_eq_true_iff,
    decide_eq_true_iff, decide_eq_true_iff]
  omega

/-- What `EvaluateSprites` answers, by the list of the sprites in range (R271, R275). -/
theorem evaluateSprites_eq (g : Video) {found : List Nat}
    (hfound : (List.range 64).filter (spriteInRange g.ppu) = found) :
    ∃ slots : Vector SpriteSlot 8,
      evaluateSprites g =
        { ppu :=
            { g.ppu with
              spriteCount := min found.length 8
              spriteOverflow := g.ppu.spriteOverflow || decide (8 < found.length)
              sprites := slots }
          env := envAfterFetches g.ppu g.env (found.take 8) } ∧
      (∀ k (h : k < 8) (hk : k < found.length),
        slots[k] = evaluatedSlot g.ppu (envAfterFetches g.ppu g.env (found.take k)) found[k]) ∧
      ∀ k (h : k < 8), found.length ≤ k → slots[k] = g.ppu.sprites[k] := by
  obtain ⟨hcount, henv, hppu, hfilled, hkept⟩ := hfound ▸ slotsFilled_foldl g.ppu g.env (List.range 64)
  refine ⟨_, ?_, hfilled, hkept⟩
  rw [evaluateSprites]
  dsimp only
  rw [hcount, henv, hppu]

/-- Settles O53: the tests of range as the statement writes them. -/
theorem spriteEvaluationFillsSlots : Obligations.SpriteEvaluationFillsSlots := fun g =>
  evaluateSprites_eq g (congrArg (List.filter · (List.range 64)) (funext (spriteInRange_eq_decide g.ppu)))

end SpriteEvaluation
end Sys2Proof.Machine

namespace Sys2Proof.Machine

/-! Power-on and `Reset` (R360, R361). -/

section Reset

/-- A write of 0 to $2000 clears the control flags and bits 11:10 of `t`; the level falls, which starts nothing (R221,
R340). -/
theorem writeControl_zero (p : Ppu) :
    writeControl 0 p =
      { p with control := Control.zero, nmiOutput := false, nmiPrev := false, t := p.t &&& 0x73FF } := by
  have ht (t : BitVec 15) : (t &&& 0x73FF) ||| (((0 : Byte) &&& 0x03).setWidth 15 <<< 10) = t &&& 0x73FF :=
    BitVec.or_zero
  simp only [writeControl, nmiChange, ht]
  rfl

/-- A write of 0 to $2001 clears the mask flags (R223). -/
theorem writeMask_zero (p : Ppu) : writeMask 0 p = { p with mask := Mask.zero } := rfl

/-- `Reset` as one record (R361). -/
theorem hostReset_eq (s : State) :
    hostReset s =
      { s with
        pc := word16 (cartCpuRead 0xFFFD (cartCpuRead 0xFFFC s.env).2).1 (cartCpuRead 0xFFFC s.env).1
        sp := 0xFD, p := 0x24, cycles := 7, stall := 0, nmiPending := false
        ppu :=
          { s.ppu with
            cycle := 340, scanline := 240, frame := 0, control := Control.zero, nmiOutput := false, nmiPrev := false
            t := s.ppu.t &&& 0x73FF, mask := Mask.zero, oamAddr := 0 }
        env := (cartCpuRead 0xFFFD (cartCpuRead 0xFFFC s.env).2).2 } := by
  simp only [hostReset, read16_vecReset, resetPpu, writeControl_zero, writeMask_zero]
  rfl

/-- Settles O2: `Reset` is its record. -/
theorem hostResetWritesOnlyItsFields : Obligations.HostResetWritesOnlyItsFields := hostReset_eq

/-- Settles O1: power-on is `Reset` from the state whose fields are all 0. -/
theorem powerOnSetsEveryField : Obligations.PowerOnSetsEveryField := by
  intro e low high
  have hscroll : (State.zero e).ppu.t &&& 0x73FF = 0 := BitVec.zero_and
  rw [powerOn, hostReset_eq, hscroll]
  rfl

theorem reset_eq_powerOn : State.reset = powerOn Env.unknown := (hostReset_eq (State.zero Env.unknown)).symm

theorem reset_registersOk : State.reset.ppu.registersOk :=
  ⟨⟨by decide, by decide, by decide, by decide⟩, BitVec.zero_and, rfl⟩

/-- Every memory is empty at reset, and nothing is known of the environment. -/
theorem reset_memoriesOk : State.reset.memoriesOk := by
  have hempty (size : Nat) : Memory.wf size [] := ⟨.nil, by simp⟩
  have hgrid : Grid.wf [] := ⟨⟨.nil, by simp⟩, by simp⟩
  have hunknown (size : Nat) : Image.wf size Image.unknown := ⟨.nil, fun _ h => nomatch h⟩
  exact ⟨hempty _, ⟨hempty _, hempty _, hempty _, hgrid, hgrid⟩, hunknown _, hunknown _, hunknown _⟩

/-- Settles O3: each part of the invariant at the values of R40. -/
theorem resetIsPowerOnAndMeetsTheInvariant : Obligations.ResetIsPowerOnAndMeetsTheInvariant := by
  obtain ⟨hbounds, hattr, hedge⟩ := reset_registersOk
  exact ⟨reset_eq_powerOn, statusLegal_resetP, hbounds, hattr, hedge, ⟨rfl, rfl, rfl, rfl⟩, reset_memoriesOk⟩

end Reset

/-! The NMI edge detector (R340, R341). -/

section NmiEdge

theorem nmiChange_eq (p : Ppu) :
    nmiChange p =
      { p with
        nmiDelay := if p.nmiOutput = true ∧ p.nmiOccurred = true ∧ p.nmiPrev = false then 2 else p.nmiDelay
        nmiPrev := p.nmiOutput && p.nmiOccurred } := by
  simp only [nmiChange, Ppu.nmiLevel, Config.nmiDelay, Bool.and_eq_true, Bool.not_eq_true', and_assoc]

/-- A countdown that is not running stays at 0 and latches nothing (R341). -/
theorem nmiDelayTick_eq (s : State) :
    nmiDelayTick s =
      { s with
        ppu := { s.ppu with nmiDelay := s.ppu.nmiDelay - 1 }
        nmiPending := s.nmiPending || (s.ppu.nmiDelay == 1 && s.ppu.nmiOutput && s.ppu.nmiOccurred) } := by
  unfold nmiDelayTick
  split
  · rw [Bool.and_assoc]
    rfl
  · next h =>
    have hkeep : s.ppu.nmiDelay - 1 = s.ppu.nmiDelay := by omega
    have hlatch : (s.ppu.nmiDelay == 1) = false := beq_false_of_ne (by omega)
    rw [hkeep, hlatch, Bool.false_and, Bool.false_and, Bool.or_false]

/-- Settles O49: the two records, twice in a row; a status read clears the level that expiry tests again. -/
theorem nmiEdgeIsDelayedAndRetested : Obligations.NmiEdgeIsDelayedAndRetested := by
  refine ⟨nmiChange_eq, nmiDelayTick_eq, fun s hdelay hpending => ?_⟩
  simp [nmiDelayTick_eq, readStatus_snd, hdelay, hpending]

end NmiEdge

/-! The arms of a CPU step (R305) and the cycles each takes. -/

section CpuStep

theorem readCycles_pos (m : MemOperand) : 0 < readCycles m := by cases m <;> exact Nat.succ_pos _

theorem writeCycles_pos (m : MemOperand) : 0 < writeCycles m := by cases m <;> exact Nat.succ_pos _

/-- The four modes that the read-modify-write instructions have cost something (R108; log entry 11). -/
theorem rmwCycles_pos {m : MemOperand} (h : m.isX = true) : 0 < rmwCycles m := by
  cases m with
  | zp | zpX | abs | absX => exact Nat.succ_pos _
  | zpY | absY | indX | indY => cases h

theorem readCost_pos (m : MemOperand) (s : State) : 0 < readCost m s := Nat.add_pos_left (readCycles_pos m) _

theorem readOperandCost_pos (m : ReadOperand) (s : State) : 0 < readOperandCost m s := by
  cases m with
  | imm b => exact Nat.two_pos
  | mem m => exact readCost_pos m s

theorem shiftOperandCost_pos {m : ShiftOperand} (h : m.passes MemOperand.isX = true) : 0 < shiftOperandCost m := by
  cases m with
  | acc => exact Nat.two_pos
  | mem m => exact rmwCycles_pos h

theorem branchCost_pos (taken : Bool) (off : Byte) (s : State) : 0 < branchCost taken off s := by
  unfold branchCost
  split <;> omega

/-- A well-formed instruction takes time (R108). -/
theorem instrCost_pos {i : Instr} (h : i.wellFormed = true) (s : State) : 0 < instrCost s i := by
  cases i with
  | lda m | ldx m | ldy m | adc m | sbc m | and m | ora m | eor m | cmp m | cpx m | cpy m =>
    exact readOperandCost_pos m s
  | bit m => exact readCost_pos m s
  | sta m | stx m | sty m => exact writeCycles_pos m
  | asl m | lsr m | rol m | ror m => exact shiftOperandCost_pos h
  | inc m | dec m => exact rmwCycles_pos h
  | bcc off | bcs off | beq off | bne off | bmi off | bpl off | bvc off | bvs off => exact branchCost_pos _ off s
  | jmp t => cases t <;> exact Nat.succ_pos _
  | _ => exact Nat.succ_pos _

theorem fetch_wellFormed (s : State) : (fetch s).1.wellFormed = true := by
  obtain ⟨op, os, -, -, hdecode⟩ := decode_eq_ok (fetch_eq s).1
  rw [wellFormed_eq_isSome_opcode, ← hdecode, opcode_decodeOp, Option.isSome_some]

@[simp] theorem fetch_cycles (s : State) : (fetch s).2.cycles = s.cycles := by
  unfold fetch
  dsimp only
  split <;> simp

/-- The instruction fetched runs and takes time (R307). -/
theorem execInstruction_next (s : State) : ∃ t, execInstruction s = .next t ∧ s.cycles < t.cycles := by
  obtain ⟨t, hexec, hcycles⟩ := exec_cycles (fetch s).1 (fetch s).2
  have hpos := instrCost_pos (fetch_wellFormed s) (fetch s).2
  rw [fetch_cycles] at hcycles
  exact ⟨t, hexec, by omega⟩

/-- An NMI or IRQ entry takes time of its own (R335). -/
theorem cycles_lt_interruptEntry {k : EntryKind} (hk : k ≠ .brk) (s : State) :
    s.cycles < (interruptEntry k s).cycles := by
  rw [interruptEntry_eq]
  obtain rfl | rfl := EntryKind.nmi_or_irq hk <;> exact Nat.lt_add_of_pos_right (by decide)

/-- The arms of R305 in their order; the line is sampled where neither a stall nor an NMI comes first (R22). -/
theorem cpuStep_eq (s : State) :
    cpuStep s =
      if 0 < s.stall then .next { s with stall := s.stall - 1, cycles := s.cycles + 1 }
      else if s.nmiPending = true then .next (interruptEntry .nmi { s with nmiPending := false })
      else if (irqSample s.env).1 = true ∧ flagI s.p = false then
        .next (interruptEntry .irq { s with env := (irqSample s.env).2 })
      else execInstruction { s with env := (irqSample s.env).2 } := by
  have hirq : (!s.flagI && (irqSample s.env).1) = true ↔ (irqSample s.env).1 = true ∧ flagI s.p = false := by
    rw [Bool.and_eq_true, Bool.not_eq_true', and_comm]
    rfl
  simp only [cpuStep, hirq]
  rfl

/-- A CPU step completes and takes at least one cycle, whichever arm it takes (R305, R331). -/
theorem cpuStep_next (s : State) : ∃ t, cpuStep s = .next t ∧ s.cycles < t.cycles := by
  rw [cpuStep_eq]
  split
  · exact ⟨_, rfl, Nat.lt_succ_self _⟩
  · split
    · exact ⟨_, rfl, cycles_lt_interruptEntry (by decide) { s with nmiPending := false }⟩
    · split
      · exact ⟨_, rfl, cycles_lt_interruptEntry (by decide) { s with env := (irqSample s.env).2 }⟩
      · exact execInstruction_next _

/-- Settles O9: the arms as `cpuStep_eq` has them, and `cpuStep_next` for the cycles. -/
theorem cpuStepTakesItsArmsInOrder : Obligations.CpuStepTakesItsArmsInOrder := by
  refine ⟨cpuStep_eq, fun s t e => ?_⟩
  obtain ⟨u, hu, hlt⟩ := cpuStep_next s
  cases hu.symm.trans e
  exact hlt

theorem globalStep_of_cpuStep {s t : State} (e : cpuStep s = .next t) :
    globalStep s = .next (finishStep s.cycles t) := by
  rw [globalStep, e]

/-- Settles O11: what follows the CPU step is `finishStep`. -/
theorem globalStepRunsThreeDotsPerCycle : Obligations.GlobalStepRunsThreeDotsPerCycle :=
  fun _ _ e => globalStep_of_cpuStep e

theorem step_next (s : State) : ∃ t, step s = .next t := by
  cases h : s.env.resetRequested with
  | true => exact ⟨_, step_of_resetRequested h⟩
  | false =>
    obtain ⟨t, ht, -⟩ := cpuStep_next s
    exact ⟨_, (step_of_not_resetRequested h).trans (globalStep_of_cpuStep ht)⟩

/-- Settles O8: an instruction completes by `exec_cycles`; a step serves `Reset`, or finishes a CPU step that has
completed. -/
theorem everyInstructionAndStepCompletes : Obligations.EveryInstructionAndStepCompletes :=
  ⟨fun i s => (exec_cycles i s).imp fun _ => And.left, step_next⟩

end CpuStep

/-! A stall (R306): what a global step leaves alone after its CPU step, and a run of stall cycles. -/

section Stall

/-- Of the environment, a dot changes the hidden state alone. -/
theorem ppuStep_env (g : Video) : ∃ t, (ppuStep g).env = { g.env with token := t } := by
  obtain ⟨_, _, _, _, _, _, _, _, _, t, hrender, -⟩ := renderStage_eq { g with ppu := pixelStage (tick g.ppu) }
  obtain ⟨_, _, _, _, _, _, _, _, u, hvblank, -⟩ :=
    vblankStage_eq (renderStage { g with ppu := pixelStage (tick g.ppu) })
  exact ⟨u, by rw [ppuStep, hvblank, hrender]⟩

theorem ppuSteps_env (n : Nat) (g : Video) : ∃ t, (ppuSteps n g).env = { g.env with token := t } := by
  induction n generalizing g with
  | zero => exact ⟨g.env.token, rfl⟩
  | succ n ih =>
    obtain ⟨t, ht⟩ := ih (ppuStep g)
    obtain ⟨u, hu⟩ := ppuStep_env g
    exact ⟨t, by rw [ppuSteps, ht, hu]⟩

/-- The dots and the countdown change the PPU, the environment's hidden state and `nmi_pending` alone (R310). -/
theorem finishStep_eq (c : Nat) (s : State) :
    ∃ p t b, finishStep c s = { s with ppu := p, env := { s.env with token := t }, nmiPending := b } := by
  obtain ⟨t, ht⟩ := ppuSteps_env (Config.ppuClockRatio * (s.cycles - c)) s.video
  rw [finishStep, nmiDelayTick_eq, State.runDots, State.setVideo, ht]
  exact ⟨_, t, _, rfl⟩

theorem cpuStep_of_stall {s : State} (h : 0 < s.stall) :
    cpuStep s = .next { s with stall := s.stall - 1, cycles := s.cycles + 1 } := if_pos h

/-- A stall cycle is a whole global step (R306). -/
theorem step_of_stall {s : State} (h : 0 < s.stall) (hreset : s.env.resetRequested = false) :
    ∃ p t b, step s =
      .next
        { s with
          stall := s.stall - 1, cycles := s.cycles + 1, ppu := p, env := { s.env with token := t }
          nmiPending := b } := by
  obtain ⟨p, t, b, hfinish⟩ := finishStep_eq s.cycles { s with stall := s.stall - 1, cycles := s.cycles + 1 }
  exact ⟨p, t, b, by
    rw [step_of_not_resetRequested hreset, globalStep_of_cpuStep (cpuStep_of_stall h), hfinish]⟩

theorem run_of_step {s t : State} (e : step s = .next t) (n : Nat) : core.run (n + 1) s = core.run n t := by
  have hcore : core.step s = .next t := e
  simp only [Host.Core.run, hcore]

/-- A run over a whole stall: no dot sets the request for `Reset`, so each step is the next stall cycle. -/
theorem run_stall {n : Nat} {s : State} (hstall : s.stall = n) (hreset : s.env.resetRequested = false) :
    ∃ p e b, core.run n s =
      .next { s with stall := 0, cycles := s.cycles + n, ppu := p, env := e, nmiPending := b } := by
  induction n generalizing s with
  | zero => exact ⟨s.ppu, s.env, s.nmiPending, by cases s; cases hstall; rfl⟩
  | succ n ih =>
    obtain ⟨p, t, b, hstep⟩ := step_of_stall (by omega) hreset
    have hcycles : s.cycles + (n + 1) = s.cycles + 1 + n := by omega
    rw [run_of_step hstep, hcycles]
    exact ih (Nat.sub_eq_of_eq_add hstall) hreset

/-- Settles O10: `run_stall`, read field by field. -/
theorem stallLastsItsCount : Obligations.StallLastsItsCount := by
  intro n s hstall hreset
  obtain ⟨p, e, b, hrun⟩ := run_stall hstall hreset
  exact ⟨_, hrun, rfl, rfl, rfl, rfl, rfl, rfl, rfl, rfl, rfl⟩

end Stall

/-! OAM DMA (R315, R316). -/

section OamDma

variable (page : Byte) (n : Nat) (s : State)

/-- The copy moves the OAM cursor on by one for each byte, and keeps the latch, palette and nametables. -/
theorem dmaCopy_ppu :
    (dmaCopy page n 0 s).ppu.oamAddr = s.ppu.oamAddr + BitVec.ofNat 8 n ∧
    (dmaCopy page n 0 s).ppu.ioLatch = s.ppu.ioLatch ∧
    (dmaCopy page n 0 s).ppu.palette = s.ppu.palette ∧
    (dmaCopy page n 0 s).ppu.nametable = s.ppu.nametable := by
  induction n with
  | zero => exact ⟨(BitVec.add_zero _).symm, rfl, rfl, rfl⟩
  | succ n ih =>
    obtain ⟨hcursor, hlatch, hpal, hname⟩ := ih
    obtain ⟨hcursor', -, hlatch', hpal', hname'⟩ := dmaByte_oam page (dmaCopy page n 0 s) (0 + n)
    rw [dmaCopy_last]
    refine ⟨?_, hlatch'.trans hlatch, hpal'.trans hpal, hname'.trans hname⟩
    rw [hcursor', hcursor, BitVec.add_assoc, BitVec.ofNat_add]
    rfl

/-- The OAM after one more byte. -/
theorem dmaCopy_succ_oam :
    (dmaCopy page (n + 1) 0 s).ppu.oam =
      (dmaCopy page n 0 s).ppu.oam.write (s.ppu.oamAddr + BitVec.ofNat 8 n).toNat
        (memRead (word16 page (BitVec.ofNat 8 n)) (dmaCopy page n 0 s)).1 := by
  obtain ⟨-, hoam, -⟩ := dmaByte_oam page (dmaCopy page n 0 s) (0 + n)
  rw [dmaCopy_last, hoam, (dmaCopy_ppu page n s).1, Nat.zero_add]

variable {n}

/-- Up to 256 bytes go to different OAM entries, so each stays where the copy has put it. -/
theorem dmaCopy_oam_read (hn : n ≤ 256) {i : Nat} (hi : i < n) :
    (dmaCopy page n 0 s).ppu.oam.read (s.ppu.oamAddr + BitVec.ofNat 8 i).toNat =
      (memRead (word16 page (BitVec.ofNat 8 i)) (dmaCopy page i 0 s)).1 := by
  induction n with
  | zero => omega
  | succ n ih =>
    rw [dmaCopy_succ_oam, Memory.read_write]
    obtain rfl | hlt := Nat.eq_or_lt_of_le (Nat.le_of_lt_succ hi)
    · rw [if_pos rfl]
    · have hne : (s.ppu.oamAddr + BitVec.ofNat 8 n).toNat ≠ (s.ppu.oamAddr + BitVec.ofNat 8 i).toNat := by
        simp only [BitVec.toNat_add, BitVec.toNat_ofNat]
        omega
      rw [if_neg hne, ih (by omega) hlt]

/-- The stall of a DMA (R316). -/
theorem oamDma_stall : (oamDma page s).stall = s.stall + (if s.cycles % 2 = 1 then 514 else 513) := by
  obtain ⟨g, h⟩ := oamDma_eq page s
  rw [h, State.setStall_stall, Config.dmaStall]
  split <;> omega

/-- Settles O22: the bytes by `dmaCopy_oam_read`, the PPU's frame by `dmaCopy_ppu`, and the rest by `oamDma_eq`. -/
theorem oamDmaCopiesThePage : Obligations.OamDmaCopiesThePage := by
  intro page s t
  obtain ⟨hcursor, hlatch, hpal, hname⟩ := dmaCopy_ppu page 256 s
  obtain ⟨g, ht⟩ := oamDma_eq page s
  refine ⟨oamDma_stall page s, hcursor.trans (BitVec.add_zero _), fun i hi => ?_, ?_⟩
  · rw [pageByte_address page i hi, ← dmaCopy_oam_read page s le_rfl hi, BitVec.toNat_add, BitVec.toNat_ofNat,
      Nat.add_mod_mod]
    rfl
  · refine ⟨?_, ?_, ?_, ?_, ?_, ?_, ?_, ?_, ?_, hlatch, hpal, hname⟩ <;> simp [t, ht]

end OamDma

/-! The three interrupt entries (R335). -/

section InterruptEntry

theorem EntryKind.vector_in_cart (k : EntryKind) : 0x4020 ≤ k.vector ∧ 0x4020 ≤ k.vector + 1 := by
  cases k <;> decide

/-- Settles O35: `interruptEntry_eq` with its kind's values written as the statement has them; the three writes of RAM
are read back. -/
theorem interruptEntrySavesAndVectors : Obligations.InterruptEntrySavesAndVectors := by
  intro k s ret pushed vector low high
  have hret : k.returnAddress s.pc = ret := by cases k <;> rfl
  have hpushed : k.pushedStatus s.p = pushed := by cases k <;> rfl
  have hvector : k.vector = vector := by cases k <;> rfl
  have hcycles : k.ownCycles = if k = .brk then 0 else 7 := by cases k <;> rfl
  obtain ⟨hlow, hhigh⟩ := k.vector_in_cart
  refine ⟨_, _, ?_, statusIs_putI _ _ _ _ _ _ _ _ _ (statusIs_self s.p),
    ramWith_cons (ramWith_cons (ramWith_write _ _ _) _ _) _ _⟩
  rw [interruptEntry_eq, read16_cart hlow hhigh, hret, hpushed, hvector, hcycles]
  rfl

end InterruptEntry
end Sys2Proof.Machine
